-- ==== Sys2Proof/Word.lean ====
section
/-! DEFINITION. The two word types of CBPF: the 32-bit word of registers, rings, headers and command words
(00_scope.md R5, 30_encoding.md R80) and the byte of MSGBUF and the doorbell windows (20_memory.md R55). -/

namespace Sys2Proof

/-- A register, a ring word, a header or a command word: `WORD_BITS = 32` (00_scope.md R5). -/
abbrev Word := BitVec 32

/-- One byte of `MSGBUF` or of a doorbell window (20_memory.md R55). -/
abbrev Byte := BitVec 8

end Sys2Proof
end

