-- ==== Sys2Proof/Config.lean ====
section
/-! DEFINITION. What one instance of CBPF fixes (00_scope.md R4, R5, R7; 30_encoding.md R90; 43_trust.md R175 to
R178; 44_doorbell.md R191), the default instance of 95_test_vectors.md, and the free values. -/

namespace Sys2Proof

/-- `TRANSPORT_KIND`, chosen once per instance (00_scope.md R7). -/
inductive TransportKind
  | circular
  | doorbell
  deriving DecidableEq, Repr

/-- The eleven boot paths (30_encoding.md R91, 43_trust.md R171). -/
inductive Path
  | normal
  | error
  | recovery
  | errorWithoutDidMsg
  | secoverMeiMsg
  | swTempDisable
  | secoverJmpr
  | debugMode
  | enforcementWithoutDidMsg
  | sps
  | spsRcv
  deriving DecidableEq, Repr

/-- A fixed table from paths to masks: `HIDE_TABLE` and `ALLOW_TABLE` (43_trust.md R175, R177). -/
structure PathTable where
  normal : Word
  error : Word
  recovery : Word
  errorWithoutDidMsg : Word
  secoverMeiMsg : Word
  swTempDisable : Word
  secoverJmpr : Word
  debugMode : Word
  enforcementWithoutDidMsg : Word
  sps : Word
  spsRcv : Word
  deriving DecidableEq, Repr

/-- The numeric codes of the status fields, open parameters (30_encoding.md R90, log 3). -/
structure StatusCodes where
  errNone : BitVec 4
  errImageFailure : BitVec 4
  curRecovery : BitVec 4
  opNormal : BitVec 4
  opDebug : BitVec 4
  opSecoverJmpr : BitVec 4
  opSwTempDisable : BitVec 4
  opSecoverMeiMsg : BitVec 4
  opSps : BitVec 4
  deriving DecidableEq, Repr

/-- One line of `CATEGORY_OF` (43_trust.md R178): a group, a command or every command, and the category. -/
structure CatRule where
  group : Byte
  command : Option (BitVec 7)
  cat : Nat
  deriving DecidableEq, Repr

/-- The parameters of one instance (00_scope.md R5, R7). Plain data, carried in State and changed by no step
(log 3). `T_RW`, `T_RESET` and `T_INIT` have fixed values and stand in Machine/Operands.lean. -/
structure Config where
  /-- `TRANSPORT_KIND` -/
  kind : TransportKind
  /-- `DEVICE_PRESENT`, the strap of 10_state.md R27 -/
  devicePresent : Bool
  /-- `HDEPTH`, words of the host-to-controller ring -/
  hdepth : BitVec 8
  /-- `CDEPTH`, words of the controller-to-host ring -/
  cdepth : BitVec 8
  /-- `CW`, the counter's width in bits -/
  cw : Nat
  /-- `TICK_HZ`, ticks per second -/
  tickHz : Nat
  /-- `T_WORD`, the inter-word timeout in microseconds -/
  tWord : Nat
  /-- `MAX_TICKS_PER_STEP` (70_reset_and_hazards.md R252) -/
  maxTicksPerStep : Nat
  /-- codes of `ERR`, `CUR` and `OPMODE` -/
  codes : StatusCodes
  /-- `NHIDE` -/
  nhide : Nat
  /-- `HIDE_TABLE` -/
  hideTable : PathTable
  /-- `NCAT` -/
  ncat : Nat
  /-- `ALLOW_TABLE` -/
  allowTable : PathTable
  /-- `CATEGORY_OF`: the first line that matches; a pair on no line is `CAT_OTHER` -/
  catRules : List CatRule
  /-- `DB_MAXPAY` -/
  dbMaxPay : Nat
  /-- `DB_MAX_MSG`, `none` for unbounded -/
  dbMaxMsg : Option Nat
  /-- `DB_PROTO_PAYLOAD` -/
  dbProtoPayload : BitVec 4
  /-- `DB_PROTO_MGMT` -/
  dbProtoMgmt : BitVec 4
  /-- `DB_SUB_COMPLETION` -/
  dbSubCompletion : BitVec 4
  /-- `DB_SUB_RESET_ACK` -/
  dbSubResetAck : BitVec 4
  /-- `DB_HS_PAYLOAD` -/
  dbHsPayload : List Byte
  /-- `DB_HS_DOORBELL` -/
  dbHsDoorbell : Word
  /-- `DB_REFCLK` -/
  dbRefclk : Word
  /-- `DB_HS_ACKS` -/
  dbHsAcks : Nat
  /-- `T_DB`, the bound of every doorbell wait in microseconds -/
  tDb : Nat
  deriving DecidableEq, Repr

/-- The codes of 30_encoding.md R90 as the spec numbers them. -/
def StatusCodes.standard : StatusCodes where
  errNone := 0
  errImageFailure := 1
  curRecovery := 1
  opNormal := 0
  opDebug := 1
  opSecoverJmpr := 2
  opSwTempDisable := 3
  opSecoverMeiMsg := 4
  opSps := 5

/-- The default instance, DESIGN CHOICE (log 3): 95_test_vectors.md section 0, with the default tables of
43_trust.md R175 to R178 and the doorbell defaults of 44_doorbell.md R191. `MAX_TICKS_PER_STEP` is the 1 000 000 of
the vectors' `STALL`. -/
def Config.standard : Config where
  kind := .circular
  devicePresent := true
  hdepth := 8
  cdepth := 8
  cw := 32
  tickHz := 1000000
  tWord := 1000000
  maxTicksPerStep := 1000000
  codes := StatusCodes.standard
  nhide := 4
  hideTable :=
    { normal := 0x0, error := 0xC, recovery := 0xC, errorWithoutDidMsg := 0xF, secoverMeiMsg := 0xF,
      swTempDisable := 0xF, secoverJmpr := 0xF, debugMode := 0xF, enforcementWithoutDidMsg := 0xF,
      sps := 0xF, spsRcv := 0xF }
  ncat := 5
  allowTable :=
    { normal := 0x1F, error := 0x07, recovery := 0x0F, errorWithoutDidMsg := 0x01, secoverMeiMsg := 0x01,
      swTempDisable := 0x01, secoverJmpr := 0x01, debugMode := 0x01, enforcementWithoutDidMsg := 0x01,
      sps := 0x1F, spsRcv := 0x01 }
  catRules :=
    [{ group := 0x01, command := some 0x01, cat := 0 }, { group := 0x01, command := some 0x02, cat := 1 },
     { group := 0x01, command := some 0x03, cat := 2 }, { group := 0x02, command := none, cat := 3 }]
  dbMaxPay := 8
  dbMaxMsg := none
  dbProtoPayload := 1
  dbProtoMgmt := 2
  dbSubCompletion := 1
  dbSubResetAck := 2
  dbHsPayload := [0xAA, 0x55, 0xAA, 0x55]
  dbHsDoorbell := 0x00048804
  dbRefclk := 0
  dbHsAcks := 1
  tDb := 1000000

/-- FREE VALUE (log 8): the word `RxPop` answers when `RXRING` is empty (20_memory.md R57,
93_implementation_defined.md U4), for the `n`-th draw. Nothing is known of it. -/
opaque Config.emptyPopWord : Nat → Word

/-- FREE VALUE (log 9): `RES2` when the sum of the `LEN` fields is `2^32` or more, which the spec does not state,
for the `n`-th draw. Nothing is known of it. -/
opaque Config.unstatedTotal : Nat → Word

end Sys2Proof
end

