-- ==== Sys2Proof/Syntax.lean ====
section
/-! DEFINITION. The nine commands of CBPF (30_encoding.md R95), one constructor for each row of the opcode table. -/

namespace Sys2Proof

/-- A command with the operands its command word carries (30_encoding.md R93, R94). The other operands stand in
`ARG0`, `ARG1` and `MSGBUF`. -/
inductive Instr
  /-- TSTART, `0x01`, format N (40_timer.md R112) -/
  | tstart
  /-- TEXPIRED, `0x02`, format N (40_timer.md R114) -/
  | texpired
  /-- INIT, `0x10`, format N (42_cb_transport.md R141, 44_doorbell.md R195) -/
  | init
  /-- SEND, `0x11`, format X: `a` the destination address, `b` the source address (R145, R197) -/
  | send (a b : Byte)
  /-- RECV, `0x12`, format R: `blk` true for RECV.B, false for RECV.NB (R148, R199) -/
  | recv (blk : Bool)
  /-- LRESET, `0x13`, format N (R152, R201) -/
  | lreset
  /-- CLASSIFY, `0x20`, format N (43_trust.md R173) -/
  | classify
  /-- HIDEMASK, `0x21`, format N (43_trust.md R174) -/
  | hidemask
  /-- ALLOWMASK, `0x22`, format N (43_trust.md R180) -/
  | allowmask
  deriving DecidableEq, Repr

end Sys2Proof
end

