-- ==== Sys2Proof/WellFormed.lean ====
section
/-! DEFINITION. What a configuration must satisfy (00_scope.md R6: a model refuses a configuration that breaks
it), check by check, and what a command must satisfy. -/

namespace Sys2Proof

/-- The table's mask for a path. -/
def PathTable.get (t : PathTable) : Path → Word
  | .normal => t.normal
  | .error => t.error
  | .recovery => t.recovery
  | .errorWithoutDidMsg => t.errorWithoutDidMsg
  | .secoverMeiMsg => t.secoverMeiMsg
  | .swTempDisable => t.swTempDisable
  | .secoverJmpr => t.secoverJmpr
  | .debugMode => t.debugMode
  | .enforcementWithoutDidMsg => t.enforcementWithoutDidMsg
  | .sps => t.sps
  | .spsRcv => t.spsRcv

/-- The eleven paths. -/
def Path.all : List Path :=
  [.normal, .error, .recovery, .errorWithoutDidMsg, .secoverMeiMsg, .swTempDisable, .secoverJmpr, .debugMode,
   .enforcementWithoutDidMsg, .sps, .spsRcv]

/-- `2 <= HDEPTH <= 255`, `2 <= CDEPTH <= 255` (00_scope.md R6); the upper bounds are the width. -/
def Config.depthsOk (c : Config) : Bool := decide (2 ≤ c.hdepth.toNat) && decide (2 ≤ c.cdepth.toNat)

/-- `1 <= CW <= 32`, `TICK_HZ` positive (00_scope.md R5). -/
def Config.counterOk (c : Config) : Bool := decide (1 ≤ c.cw) && decide (c.cw ≤ 32) && decide (0 < c.tickHz)

/-- `0 < T_WORD < T_RW` (00_scope.md R5). -/
def Config.tWordOk (c : Config) : Bool := decide (0 < c.tWord) && decide (c.tWord < 5000000)

/-- The longest timeouts fit the counter: `floor(15 000 000 * TICK_HZ / 1 000 000) < 2^CW` (00_scope.md R6), and
the same of `T_DB` (DEDUCED from 70_reset_and_hazards.md R251, log 16). -/
def Config.timeoutsFit (c : Config) : Bool :=
  decide (15000000 * c.tickHz / 1000000 < 2 ^ c.cw) && decide (c.tDb * c.tickHz / 1000000 < 2 ^ c.cw)

/-- The sampling bound of 70_reset_and_hazards.md R252, for the longest duration and for `T_DB` (log 16). -/
def Config.samplingOk (c : Config) : Bool :=
  decide (2 * c.maxTicksPerStep + 15000000 * c.tickHz / 1000000 ≤ 2 ^ c.cw - 1) &&
    decide (2 * c.maxTicksPerStep + c.tDb * c.tickHz / 1000000 ≤ 2 ^ c.cw - 1)

/-- Different names have different codes (DEDUCED from 43_trust.md R172 d, log 16). -/
def Config.codesOk (c : Config) : Bool :=
  decide (c.codes.errNone ≠ c.codes.errImageFailure) &&
    decide ([c.codes.opNormal, c.codes.opDebug, c.codes.opSecoverJmpr, c.codes.opSwTempDisable,
      c.codes.opSecoverMeiMsg, c.codes.opSps].Nodup)

/-- Every mask of the table has no bit at or above `n`. -/
def PathTable.fits (t : PathTable) (n : Nat) : Bool := Path.all.all fun p => decide ((t.get p).toNat < 2 ^ n)

/-- H1 to H3 of 43_trust.md R175, and `NHIDE` bits that fit `RES0` (log 16). -/
def Config.hideOk (c : Config) : Bool :=
  decide (c.nhide ≤ 32) && c.hideTable.fits c.nhide &&
    decide (c.hideTable.secoverJmpr.toNat = 2 ^ c.nhide - 1) &&
    decide (c.hideTable.debugMode.toNat = 2 ^ c.nhide - 1) &&
    decide (c.hideTable.enforcementWithoutDidMsg.toNat = 2 ^ c.nhide - 1) &&
    decide (c.hideTable.normal = 0) &&
    decide (c.hideTable.error ≠ 0) && decide (c.hideTable.error.toNat ≠ 2 ^ c.nhide - 1) &&
    decide (c.hideTable.recovery ≠ 0) && decide (c.hideTable.recovery.toNat ≠ 2 ^ c.nhide - 1)

/-- The categories: bits 0, 1, 2 and a last bit `CAT_OTHER` (43_trust.md R176), all in `RES0` (log 16); every line
of `CATEGORY_OF` answers a category below `NCAT` (R178). -/
def Config.categoriesOk (c : Config) : Bool :=
  decide (4 ≤ c.ncat) && decide (c.ncat ≤ 32) && c.catRules.all fun r => decide (r.cat < c.ncat)

/-- A1 to A4 of 43_trust.md R177. -/
def Config.allowOk (c : Config) : Bool :=
  c.allowTable.fits c.ncat && (Path.all.all fun p => (c.allowTable.get p).getLsbD 0) &&
    decide (c.allowTable.normal.toNat = 2 ^ c.ncat - 1) && decide (c.allowTable.sps.toNat = 2 ^ c.ncat - 1) &&
    decide (c.allowTable.error = 7) &&
    decide (c.allowTable.recovery &&& 7 = 7) && decide (c.allowTable.recovery ≠ 7)

/-- The constraints on the doorbell constants (44_doorbell.md R191). -/
def Config.doorbellOk (c : Config) : Bool :=
  decide (1 ≤ c.dbMaxPay) && decide (c.dbMaxPay ≤ 511) && decide (c.dbProtoPayload ≠ c.dbProtoMgmt) &&
    decide (c.dbSubCompletion ≠ c.dbSubResetAck) && decide (c.dbHsPayload.length ≤ 4 + c.dbMaxPay) &&
    c.dbHsDoorbell.getLsbD 18 && (decide (c.dbHsAcks = 1) || decide (c.dbHsAcks = 2))

/-- A configuration of CBPF: every constraint holds (00_scope.md R6). A step refuses any other. -/
def Config.wf (c : Config) : Bool :=
  c.depthsOk && c.counterOk && c.tWordOk && c.timeoutsFit && c.samplingOk && c.codesOk && c.hideOk &&
    c.categoriesOk && c.allowOk && c.doorbellOk

/-- A command's operands have exactly the widths of their fields (30_encoding.md R93), so every term is a command
that some word carries; there is nothing to check. -/
def Instr.wf : Instr → Bool
  | .tstart => true
  | .texpired => true
  | .init => true
  | .send _ _ => true
  | .recv _ => true
  | .lreset => true
  | .classify => true
  | .hidemask => true
  | .allowmask => true

end Sys2Proof
end

