-- ==== Sys2Proof/Decode.lean ====
section
/-! DEFINITION. The command word (30_encoding.md R93, R95, R96): decoding, total on every 32-bit word and
rejecting by name, and encoding. -/

namespace Sys2Proof

/-- Why a command word is illegal (30_encoding.md R96). Either way the engine ends it with UNSUPPORTED. -/
inductive DecodeError
  /-- its `OPC` is none of the nine -/
  | reservedOpcode
  /-- a bit that its format requires to be zero is set -/
  | reservedBits
  deriving DecidableEq, Repr

/-- `OPC`, bits 7:0 (30_encoding.md R93). -/
def cmdOpc (w : Word) : Byte := w.extractLsb' 0 8

/-- `A`, bits 15:8. -/
def cmdA (w : Word) : Byte := w.extractLsb' 8 8

/-- `B`, bits 23:16. -/
def cmdB (w : Word) : Byte := w.extractLsb' 16 8

/-- `BLK`, bit 24. -/
def cmdBlk (w : Word) : Bool := w.getLsbD 24

/-- The bits a format fixes: `OPC` in all three; N fixes all the rest, X bits 31:24, R bits 23:8 and 31:25
(30_encoding.md R93, R95). -/
def maskN : Word := 0xFFFFFFFF
/-- see `maskN` -/
def maskX : Word := 0xFF0000FF
/-- see `maskN` -/
def maskR : Word := 0xFEFFFFFF

/-- A word selects a row exactly when `w AND mask = match` (30_encoding.md R95). -/
def selects (w mask pattern : Word) : Bool := decide (w &&& mask = pattern)

/-- The nine opcodes of 30_encoding.md R95. -/
def opcodes : List Byte := [0x01, 0x02, 0x10, 0x11, 0x12, 0x13, 0x20, 0x21, 0x22]

/-- The opcode map (30_encoding.md R95), row by row in the table's order; no row overlaps another. -/
def decodeWord (w : Word) : Except DecodeError Instr :=
  if selects w maskN 0x00000001 then .ok .tstart
  else if selects w maskN 0x00000002 then .ok .texpired
  else if selects w maskN 0x00000010 then .ok .init
  else if selects w maskX 0x00000011 then .ok (.send (cmdA w) (cmdB w))
  else if selects w maskR 0x00000012 then .ok (.recv (cmdBlk w))
  else if selects w maskN 0x00000013 then .ok .lreset
  else if selects w maskN 0x00000020 then .ok .classify
  else if selects w maskN 0x00000021 then .ok .hidemask
  else if selects w maskN 0x00000022 then .ok .allowmask
  else if opcodes.contains (cmdOpc w) then .error .reservedBits
  else .error .reservedOpcode

/-- The command word of a command (30_encoding.md R93, R99). -/
def encode : Instr → Word
  | .tstart => 0x00000001
  | .texpired => 0x00000002
  | .init => 0x00000010
  | .send a b => 0x00000011 ||| (a.setWidth 32 <<< 8) ||| (b.setWidth 32 <<< 16)
  | .recv blk => 0x00000012 ||| (if blk then 0x01000000 else 0)
  | .lreset => 0x00000013
  | .classify => 0x00000020
  | .hidemask => 0x00000021
  | .allowmask => 0x00000022

/-- The 32-bit command word whose low `nbits` bits are those of `w`, all others zero. -/
def commandWord (nbits w : Nat) : Word := BitVec.ofNat 32 (w % 2 ^ nbits)

/-- The command this decoder reads from the bits `w` of a table row (the command word is one 32-bit register, so
there are no bytes to lay out). -/
def decodeTableWord (nbits w : Nat) : Option Instr :=
  match decodeWord (commandWord nbits w) with
  | .ok i => some i
  | .error _ => none

end Sys2Proof
end

