-- ==== Sys2Proof/Machine/State.lean ====
section
/-! DEFINITION. The state of CBPF (10_state.md R10 to R45) as plain data, the moves of the client and of the
environment that it holds, and the state at reset. -/

namespace Sys2Proof.Machine

/-! ### Registers -/

/-- A control/status register, `HCSR` or `CCSR` (10_state.md R11, R16). Bits 31:28 read as 0 and have no home. -/
structure Csr where
  wp : BitVec 8
  rp : BitVec 8
  depth : BitVec 8
  /-- `RST`, the reset flag -/
  rst : Bool
  /-- `RDY`, the ready flag -/
  rdy : Bool
  /-- `IG`, the interrupt-generate flag -/
  ig : Bool
  /-- `IS`, the interrupt-status flag -/
  is : Bool
  deriving DecidableEq, Repr

/-- A doorbell register, `DB_OUT` or `DB_IN` (10_state.md R28). Bits 31:19 are written 0 and ignored on read. -/
structure Doorbell where
  len : BitVec 10
  proto : BitVec 4
  subcmd : BitVec 4
  busy : Bool
  deriving DecidableEq, Repr

/-- `COMM` (10_state.md R29). Bits 31:3 are written 0. -/
structure Comm where
  hostReady : Bool
  drvLoaded : Bool
  drvReady : Bool
  deriving DecidableEq, Repr

/-- `LSTATE` (10_state.md R23). Its codes stand in Machine/Layout.lean; code 3 is never written. -/
inductive LState
  | uninit
  | ready
  | resetting
  deriving DecidableEq, Repr

/-- The names of the register space (20_memory.md R50, R65). -/
inductive Reg
  | txwin | hcsr | rxwin | ccsr | stsA | stsB | counter | lstate | cmd | arg0 | arg1 | result | res0 | res1 | res2
  | dbOut | dbIn | comm | refclk
  deriving DecidableEq, Repr

/-- The result codes (60_exceptions.md R215); their numbers stand in Machine/Layout.lean. -/
inductive ResultCode
  | success
  | deviceNotPresent
  | notReady
  | timeout
  | bufferTooSmall
  | noData
  | protocolError
  | unsupported
  | overflow
  deriving DecidableEq, Repr

/-- An event of `TRACE` (10_state.md R32). -/
inductive Event
  /-- a `RegWrite`, with the register's value after it -/
  | writeReg (r : Reg) (value : Word)
  /-- a `TxPush` -/
  | push (w : Word)
  /-- an `RxPop` -/
  | pop (w : Word)
  /-- a write of `OUT_MSG`: its bytes from index 0 (log 12) -/
  | writeWin (bytes : List Byte)
  deriving DecidableEq, Repr

/-- `MSGBUF` or a doorbell window: cells in strictly rising order of address, none equal to what an unlisted
byte reads as (`unlistedByte` in Machine/Ops.lean). -/
abbrev Memory := List Host.Cell

/-! ### Moves of the other agents (held in State, log 2 and log 4) -/

/-- The four flags of `CCSR`, all the controller's (30_encoding.md R85). -/
inductive CsrFlag
  | rst | rdy | ig | is
  deriving DecidableEq, Repr

/-- A move of the environment (20_memory.md R66 to R72). A move whose condition does not hold is not taken. -/
inductive EnvMove
  /-- R66, the controller takes the front word of `TXRING` -/
  | consume
  /-- R67, the controller appends `w` to `RXRING` -/
  | produce (w : Word)
  /-- R68, a flag of `CCSR` -/
  | ccsrFlag (f : CsrFlag) (v : Bool)
  /-- R68, `HCSR.IS` -/
  | hcsrIs (v : Bool)
  /-- R68, clear `HCSR.IG` -/
  | clearHcsrIg
  /-- R69, the link accepts a reset -/
  | acceptReset
  /-- R70, an ill-behaved controller sets the pointers it can reach -/
  | disturbPointers (ccsrWp ccsrRp hcsrRp : BitVec 8)
  /-- R70, an ill-behaved controller removes or replaces words of `RXRING` -/
  | disturbRing (words : List Word)
  /-- 93_implementation_defined.md U5: on a ring pushed beyond `HDEPTH`, the unread word `i` is lost (log 10) -/
  | loseTxWord (i : Nat)
  /-- R71, `n` ticks, one after another -/
  | ticks (n : Nat)
  /-- R72, `STS_A` takes a value -/
  | stsA (w : Word)
  /-- R72, `STS_B` takes a value -/
  | stsB (w : Word)
  /-- R72, the coprocessor clears `DB_OUT.BUSY` -/
  | takeOut
  /-- R72, with `DB_IN.BUSY = 0` the coprocessor writes one byte of `IN_MSG` -/
  | writeInMsg (i : Nat) (b : Byte)
  /-- R72, with `DB_IN.BUSY = 0` the coprocessor writes `DB_IN` whole, with `BUSY = 1` -/
  | postIn (w : Word)
  /-- R72, an ill-behaved coprocessor writes `DB_IN` at any time -/
  | forceIn (w : Word)
  /-- R74, the loopback controller moves the front word of `TXRING` to `RXRING` -/
  | loopback
  deriving DecidableEq, Repr

/-- A move of the client at the command port, taken only while the engine is idle (10_state.md R40 to R42,
70_reset_and_hazards.md R243, R244). -/
inductive ClientMove
  | writeArg0 (w : Word)
  | writeArg1 (w : Word)
  | writeMsg (i : Nat) (b : Byte)
  /-- write `CMD`, which starts the command -/
  | writeCmd (w : Word)
  /-- read `RESULT`; unless it is this code, leave out the next `n` moves: the client's own branch -/
  | skipUnless (code : ResultCode) (n : Nat)
  deriving DecidableEq, Repr

/-! ### The sequencer (10_state.md R42): the positions of the commands' pseudocode, with their local variables -/

/-- A timer `(start, end)` (40_timer.md R112). -/
structure Timer where
  start : Nat
  stop : Nat
  deriving DecidableEq, Repr

/-- One packet of a plan: offset, payload length, completion flag (41_codec.md R134). -/
structure Packet where
  off : Nat
  plen : Nat
  mc : Bool
  deriving DecidableEq, Repr

/-- The operands of a SEND at its gate (43_trust.md R179). -/
structure GateCtx where
  dst : Byte
  src : Byte
  len : Nat
  deriving DecidableEq, Repr

/-- The locals of a SEND's transfer: addresses, the packet in hand, the packets after it, `acked`
(44_doorbell.md R197) and `moved` (60_exceptions.md R223). -/
structure SendCtx where
  dst : Byte
  src : Byte
  cur : Packet
  rest : List Packet
  acked : Bool
  moved : Bool
  deriving DecidableEq, Repr

/-- The locals of a RECV (42_cb_transport.md R148, 44_doorbell.md R199) and `moved` (60_exceptions.md R223). -/
structure RecvCtx where
  blocking : Bool
  max : Nat
  n : Nat
  total : Nat
  small : Bool
  first : Bool
  moved : Bool
  deriving DecidableEq, Repr

/-- The packet a circular RECV is reading: its header word and the payload word in hand. -/
structure RxPacket where
  hw : Word
  i : Nat
  deriving DecidableEq, Repr

/-- The locals of `DbHandshake` (44_doorbell.md R195): the command that runs it, the round, the events still
awaited in it. -/
structure HsCtx where
  /-- true when LRESET runs the handshake, false when INIT does -/
  reset : Bool
  round : Nat
  acks : Nat
  deriving DecidableEq, Repr

/-- The three status queries (43_trust.md R173, R174, R180). -/
inductive Query
  | path
  | hide
  | allow
  deriving DecidableEq, Repr

/-- The waits of the engine, one for each `Poll` of the pseudocode (40_timer.md R116). -/
inductive Wait
  /-- INIT, `CtrlReadyCond` (42_cb_transport.md R141) -/
  | initReady
  /-- SEND, `TxSpaceCond` (R142, R143) -/
  | sendRoom (c : SendCtx)
  /-- RECV, `RxWordCond` for a header (R146, R148) -/
  | recvHeader (c : RecvCtx)
  /-- RECV, `RxWordCond` for a payload word -/
  | recvWord (c : RecvCtx) (p : RxPacket)
  /-- LRESET step 2, `HostReadyClearCond` (R152) -/
  | resetAccepted
  /-- LRESET step 3, `CtrlReadyCond` -/
  | resetReady
  /-- handshake, `OutIdleCond` (44_doorbell.md R195) -/
  | hsIdle (h : HsCtx)
  /-- handshake, `InBusyCond` in `DbWaitAck` (R193) -/
  | hsAck (h : HsCtx)
  /-- doorbell SEND, `OutIdleCond` before the packet (R196) -/
  | dbIdle (c : SendCtx)
  /-- doorbell SEND, `OutIdleCond` after a chunk -/
  | dbDone (c : SendCtx)
  /-- doorbell SEND, `InBusyCond` in `DbWaitAck` -/
  | dbAck (c : SendCtx)
  /-- doorbell RECV, `InBusyCond` (R199) -/
  | dbEvent (c : RecvCtx)
  deriving DecidableEq, Repr

/-- What one evaluation of a poll condition answers: `WAIT`, `OK` or an error code (40_timer.md R116). -/
inductive CondResult
  | wait
  | ok
  | err (c : ResultCode)
  deriving DecidableEq, Repr

/-- What a `Poll` answers: `OK`, or an error code, `TIMEOUT` among them (40_timer.md R116). -/
inductive PollEnd
  | ok
  | err (c : ResultCode)
  deriving DecidableEq, Repr

/-- Where the engine is inside a running command: the atomic access it makes next, and the locals. -/
inductive Pos
  /-- TSTART at its `Now()` (40_timer.md R112); the duration in microseconds -/
  | tstartNow (us : Nat)
  /-- TEXPIRED at its `Now()` (R114) -/
  | texpiredNow (t : Timer)
  /-- `CurrentPath()` of a query at `RegRead(STS_A)` (43_trust.md R173) -/
  | queryA (q : Query)
  /-- `CurrentPath()` of a query at `RegRead(STS_B)`; the `STS_A` it read -/
  | queryB (q : Query) (a : Word)
  /-- the gate of a SEND at `RegRead(STS_A)` (R179) -/
  | gateA (g : GateCtx)
  /-- the gate at `RegRead(STS_B)` -/
  | gateB (g : GateCtx) (a : Word)
  /-- the gate at `MemRead(0,1)` -/
  | gateGroup (g : GateCtx) (p : Path)
  /-- the gate at `MemRead(1,1)` -/
  | gateCommand (g : GateCtx) (p : Path) (group : Byte)
  /-- a `Poll` at the `Now()` of its `StartTimer` (40_timer.md R116) -/
  | pollStart (w : Wait)
  /-- a `Poll` at the register read of its condition -/
  | pollCond (w : Wait) (t : Timer)
  /-- a `Poll` at the `Now()` of its expiry test -/
  | pollNow (w : Wait) (t : Timer)
  /-- INIT at its `RegWrite(HCSR)` (42_cb_transport.md R141) -/
  | initWrite
  /-- `SendPacket` at the `TxPush` of the header (R143) -/
  | sendHeader (c : SendCtx)
  /-- `PackWord` at the `MemRead` of byte `b` of payload word `i`; the bytes read so far -/
  | sendByte (c : SendCtx) (i b : Nat) (acc : Word)
  /-- `SendPacket` at the `TxPush` of payload word `i` -/
  | sendWord (c : SendCtx) (i : Nat) (w : Word)
  /-- `SendPacket` at `RegWrite(HCSR, IG = 1)` -/
  | sendNotify (c : SendCtx)
  /-- `SendPacket` at `RegRead(CCSR)` -/
  | sendCheck (c : SendCtx)
  /-- RECV at the `RxPop` of a header (R148) -/
  | recvPopHeader (c : RecvCtx)
  /-- RECV at the `RxPop` of a payload word -/
  | recvPopWord (c : RecvCtx) (p : RxPacket)
  /-- RECV at the `MemWrite` of byte `b` of the payload word `w` -/
  | recvByte (c : RecvCtx) (p : RxPacket) (w : Word) (b : Nat)
  /-- RECV at `RegRead(CCSR)` after a packet -/
  | recvCheck (c : RecvCtx) (hw : Word)
  /-- LRESET at the `RegWrite` of step 1 (R152) -/
  | lresetBegin
  /-- LRESET at the `RegWrite` of step 4 -/
  | lresetEnd
  /-- handshake at `RegWrite(DB_IN, 0)` (44_doorbell.md R195) -/
  | hsClearIn (h : HsCtx)
  /-- handshake at `RegWrite(COMM, HOST_READY = 1)` -/
  | hsHostReady (h : HsCtx)
  /-- handshake at `RegWrite(REFCLK, DB_REFCLK)` -/
  | hsRefclk (h : HsCtx)
  /-- handshake at `RegWrite(COMM, DRV_LOADED = 1)` -/
  | hsLoaded (h : HsCtx)
  /-- handshake at `RegWrite(COMM, DRV_READY = 1)` -/
  | hsReady (h : HsCtx)
  /-- handshake at byte `k` of its write of `OUT_MSG` -/
  | hsPayload (h : HsCtx) (k : Nat)
  /-- handshake at `RegWrite(DB_OUT, DB_HS_DOORBELL)` -/
  | hsRing (h : HsCtx)
  /-- `DbWaitAck` of the handshake at `RegWrite(DB_IN, 0)` (R193) -/
  | hsAckClear (h : HsCtx)
  /-- `DbSendPacket` at byte `k` of the header in `OUT_MSG` (R196) -/
  | dbHeader (c : SendCtx) (k : Nat)
  /-- `DbSendPacket` at the `MemRead` of payload byte `k` -/
  | dbRead (c : SendCtx) (k : Nat)
  /-- `DbSendPacket` at the write of payload byte `k` to `OUT_MSG` -/
  | dbWrite (c : SendCtx) (k : Nat) (v : Byte)
  /-- `DbSendPacket` at `RegWrite(DB_OUT)` -/
  | dbRing (c : SendCtx)
  /-- `DbWaitAck` of a chunked SEND at `RegWrite(DB_IN, 0)` -/
  | dbAckClear (c : SendCtx)
  /-- doorbell RECV at byte `k` of the header in `IN_MSG`; the doorbell, the bytes read so far (R199) -/
  | dbInHeader (c : RecvCtx) (d : Doorbell) (k : Nat) (acc : Word)
  /-- doorbell RECV at the read of payload byte `k` from `IN_MSG` -/
  | dbInRead (c : RecvCtx) (hw : Word) (k : Nat)
  /-- doorbell RECV at the `MemWrite` of payload byte `k` -/
  | dbInWrite (c : RecvCtx) (hw : Word) (k : Nat) (v : Byte)
  /-- doorbell RECV at `RegWrite(DB_IN, 0)` after a packet -/
  | dbInClear (c : RecvCtx) (hw : Word)
  deriving DecidableEq, Repr

/-- `SEQ` (10_state.md R42). -/
inductive Seq
  /-- `IDLE` -/
  | idle
  /-- `BUSY(command, start)`: `CMD` has been written, the command it carries is at its start -/
  | issued
  /-- `BUSY(command, position)` -/
  | busy (p : Pos)
  deriving DecidableEq, Repr

/-! ### The whole state -/

/-- The state of CBPF (10_state.md R10), the configuration of the instance, and the model's own three fields. -/
structure State where
  /-- the parameters of the instance (00_scope.md R5); no step changes them -/
  cfg : Config
  hcsr : Csr
  ccsr : Csr
  /-- `TXRING`, oldest word first (R20) -/
  txring : List Word
  /-- `RXRING`, oldest word first (R21) -/
  rxring : List Word
  /-- `COUNTER`, below `2^CW` (R22) -/
  counter : Word
  lstate : LState
  resync : Bool
  stsA : Word
  stsB : Word
  dbOut : Doorbell
  dbIn : Doorbell
  comm : Comm
  refclk : Word
  outMsg : Memory
  inMsg : Memory
  /-- `TRACE`, oldest event first (R32) -/
  trace : List Event
  cmd : Word
  arg0 : Word
  arg1 : Word
  result : BitVec 8
  res0 : Word
  res1 : Word
  res2 : Word
  msgbuf : Memory
  seq : Seq
  /-- the model's own: the environment's moves before each coming engine step (log 2) -/
  env : List (List EnvMove)
  /-- the model's own: the client's coming moves (log 4) -/
  client : List ClientMove
  /-- the model's own: how many free values have been drawn (log 8, log 9) -/
  draws : Nat
  deriving DecidableEq, Repr

/-- Why the machine stops. -/
inductive Fault
  /-- The engine addressed a byte of `OUT_MSG` or `IN_MSG` at or above `4 + DB_MAXPAY`, which does not exist
  (10_state.md R31). Raised by the doorbell positions; no command reaches it under a valid configuration. Safe. -/
  | windowOutOfRange
  deriving DecidableEq, Repr

/-- Why the model gives a step no meaning. -/
inductive Refusal
  /-- the arm of an instruction that has no meaning; every instruction has one -/
  | notModelled (mnemonic : String)
  /-- The configuration breaks 00_scope.md R6 or a fellow constraint (93_implementation_defined.md U7). Raised by
  `step`. Safe. -/
  | badConfiguration
  deriving DecidableEq, Repr

/-! ### Reset (10_state.md R45, 70_reset_and_hazards.md R240) -/

/-- The values at reset that R45 calls unspecified, and those it gives no value, as the creator of an instance
draws them (70_reset_and_hazards.md R241). -/
structure ResetDraws where
  hcsrIs : Bool
  ccsrRst : Bool
  ccsrRdy : Bool
  ccsrIg : Bool
  ccsrIs : Bool
  counter : Word
  stsA : Word
  stsB : Word
  dbOut : Doorbell
  dbIn : Doorbell
  outMsg : Memory
  inMsg : Memory
  cmd : Word
  arg0 : Word
  arg1 : Word
  result : BitVec 8
  res0 : Word
  res1 : Word
  res2 : Word
  msgbuf : Memory
  deriving DecidableEq, Repr

/-- Every draw zero, false or empty. DESIGN CHOICE (log 5, log 6, log 7). -/
def ResetDraws.zero : ResetDraws where
  hcsrIs := false
  ccsrRst := false
  ccsrRdy := false
  ccsrIg := false
  ccsrIs := false
  counter := 0
  stsA := 0
  stsB := 0
  dbOut := { len := 0, proto := 0, subcmd := 0, busy := false }
  dbIn := { len := 0, proto := 0, subcmd := 0, busy := false }
  outMsg := []
  inMsg := []
  cmd := 0
  arg0 := 0
  arg1 := 0
  result := 0
  res0 := 0
  res1 := 0
  res2 := 0
  msgbuf := []

/-- The table of 10_state.md R45 for the instance `c` and the draws `d`. `COUNTER` is drawn in `0 .. 2^CW - 1` (R22). -/
def State.created (c : Config) (d : ResetDraws) : State where
  cfg := c
  hcsr := { wp := 0, rp := 0, depth := c.hdepth, rst := false, rdy := false, ig := false, is := d.hcsrIs }
  ccsr :=
    { wp := 0, rp := 0, depth := c.cdepth, rst := d.ccsrRst, rdy := d.ccsrRdy, ig := d.ccsrIg, is := d.ccsrIs }
  txring := []
  rxring := []
  counter := BitVec.ofNat 32 (d.counter.toNat % 2 ^ c.cw)
  lstate := .uninit
  resync := false
  stsA := d.stsA
  stsB := d.stsB
  dbOut := d.dbOut
  dbIn := d.dbIn
  comm := { hostReady := false, drvLoaded := false, drvReady := false }
  refclk := 0
  outMsg := d.outMsg
  inMsg := d.inMsg
  trace := []
  cmd := d.cmd
  arg0 := d.arg0
  arg1 := d.arg1
  result := d.result
  res0 := d.res0
  res1 := d.res1
  res2 := d.res2
  msgbuf := d.msgbuf
  seq := .idle
  env := []
  client := []
  draws := 0

/-- The machine right after reset: the default instance (log 3) with every draw zero (log 5, log 6). -/
def State.reset : State := State.created Config.standard ResetDraws.zero

end Sys2Proof.Machine
end

