-- ==== Sys2Proof/Machine/Layout.lean ====
section
/-! DEFINITION. The bit layouts and code numbers of the encoded objects (30_encoding.md R80 to R92; 10_state.md R23;
60_exceptions.md R215; 20_memory.md R65). Every layout stands here and nowhere else (log 15). The command word is
in Decode.lean. -/

namespace Sys2Proof.Machine

/-- The message header (30_encoding.md R81). -/
structure Header where
  src : Byte
  dst : Byte
  len : BitVec 9
  rsv : BitVec 6
  mc : Bool
  deriving DecidableEq, Repr

/-- `EncodeHeader(src, dst, len, mc)`, `RSV` zero (41_codec.md R125). -/
def encodeHeader (src dst : Byte) (len : BitVec 9) (mc : Bool) : Word :=
  src.setWidth 32 ||| (dst.setWidth 32 <<< 8) ||| (len.setWidth 32 <<< 16) ||| ((BitVec.ofBool mc).setWidth 32 <<< 31)

/-- `DecodeHeader(w)`, total (41_codec.md R126). -/
def decodeHeader (w : Word) : Header where
  src := w.extractLsb' 0 8
  dst := w.extractLsb' 8 8
  len := w.extractLsb' 16 9
  rsv := w.extractLsb' 25 6
  mc := w.getLsbD 31

/-- The control/status register as its 32 bits (30_encoding.md R84); bits 31:28 read as 0. -/
def Csr.toWord (c : Csr) : Word :=
  c.wp.setWidth 32 ||| (c.rp.setWidth 32 <<< 8) ||| (c.depth.setWidth 32 <<< 16) |||
    ((BitVec.ofBool c.rst).setWidth 32 <<< 24) ||| ((BitVec.ofBool c.rdy).setWidth 32 <<< 25) |||
    ((BitVec.ofBool c.ig).setWidth 32 <<< 26) ||| ((BitVec.ofBool c.is).setWidth 32 <<< 27)

/-- The fields of a control/status register (30_encoding.md R84); bits 31:28 are ignored. -/
def Csr.ofWord (w : Word) : Csr where
  wp := w.extractLsb' 0 8
  rp := w.extractLsb' 8 8
  depth := w.extractLsb' 16 8
  rst := w.getLsbD 24
  rdy := w.getLsbD 25
  ig := w.getLsbD 26
  is := w.getLsbD 27

/-- The doorbell register as its 32 bits (30_encoding.md R86); bits 31:19 are written 0. -/
def Doorbell.toWord (d : Doorbell) : Word :=
  d.len.setWidth 32 ||| (d.proto.setWidth 32 <<< 10) ||| (d.subcmd.setWidth 32 <<< 14) |||
    ((BitVec.ofBool d.busy).setWidth 32 <<< 18)

/-- The fields of a doorbell register (30_encoding.md R86); bits 31:19 are ignored. -/
def Doorbell.ofWord (w : Word) : Doorbell where
  len := w.extractLsb' 0 10
  proto := w.extractLsb' 10 4
  subcmd := w.extractLsb' 14 4
  busy := w.getLsbD 18

/-- `COMM` as its 32 bits (10_state.md R29). -/
def Comm.toWord (c : Comm) : Word :=
  (BitVec.ofBool c.hostReady).setWidth 32 ||| ((BitVec.ofBool c.drvLoaded).setWidth 32 <<< 1) |||
    ((BitVec.ofBool c.drvReady).setWidth 32 <<< 2)

/-- The fields of a `COMM` word (10_state.md R29); the bits outside them are ignored (30_encoding.md R97). -/
def Comm.ofWord (w : Word) : Comm :=
  { hostReady := w.getLsbD 0, drvLoaded := w.getLsbD 1, drvReady := w.getLsbD 2 }

/-- `GROUP`, byte 0 of a message (30_encoding.md R87). -/
def cmdHeaderGroup (byte0 : Byte) : Byte := byte0

/-- `COMMAND`, bits 6:0 of byte 1 (30_encoding.md R87). -/
def cmdHeaderCommand (byte1 : Byte) : BitVec 7 := byte1.extractLsb' 0 7

/-- `ISRESP`, bit 7 of byte 1 (30_encoding.md R87); no rule reads it. -/
def cmdHeaderIsResp (byte1 : Byte) : Bool := byte1.getLsbD 7

/-- `RESULTCODE`, byte 3 of a message (30_encoding.md R87); the upper layer's, no rule reads it. -/
def cmdHeaderResultCode (byte3 : Byte) : Byte := byte3

/-- `CUR`, bits 3:0 of `STS_A` (30_encoding.md R88). -/
def stsCur (a : Word) : BitVec 4 := a.extractLsb' 0 4

/-- `FPTBAD`, bit 4 of `STS_A`. -/
def stsFptBad (a : Word) : Bool := a.getLsbD 4

/-- `ERR`, bits 11:8 of `STS_A`. -/
def stsErr (a : Word) : BitVec 4 := a.extractLsb' 8 4

/-- `OPMODE`, bits 19:16 of `STS_A`. -/
def stsOpMode (a : Word) : BitVec 4 := a.extractLsb' 16 4

/-- `ENF`, bit 0 of `STS_B` (30_encoding.md R89). -/
def stsEnf (b : Word) : Bool := b.getLsbD 0

/-- The codes of the boot paths (30_encoding.md R91). -/
def pathCode : Path → Word
  | .normal => 0
  | .error => 1
  | .recovery => 2
  | .errorWithoutDidMsg => 3
  | .secoverMeiMsg => 4
  | .swTempDisable => 5
  | .secoverJmpr => 6
  | .debugMode => 7
  | .enforcementWithoutDidMsg => 8
  | .sps => 9
  | .spsRcv => 10

/-- The numbers of the result codes (60_exceptions.md R215). -/
def ResultCode.code : ResultCode → BitVec 8
  | .success => 0
  | .deviceNotPresent => 1
  | .notReady => 2
  | .timeout => 3
  | .bufferTooSmall => 4
  | .noData => 5
  | .protocolError => 6
  | .unsupported => 7
  | .overflow => 8

/-- The codes of the link state (10_state.md R23). -/
def LState.code : LState → BitVec 2
  | .uninit => 0
  | .ready => 1
  | .resetting => 2

/-- The optional register map: byte offsets from the instance base (20_memory.md R65). No rule uses it. -/
def Reg.offset : Reg → Nat
  | .txwin => 0x00
  | .hcsr => 0x04
  | .rxwin => 0x08
  | .ccsr => 0x0C
  | .stsA => 0x10
  | .stsB => 0x14
  | .counter => 0x18
  | .lstate => 0x1C
  | .cmd => 0x20
  | .arg0 => 0x24
  | .arg1 => 0x28
  | .result => 0x2C
  | .res0 => 0x30
  | .res1 => 0x34
  | .res2 => 0x38
  | .dbOut => 0x40
  | .dbIn => 0x44
  | .comm => 0x48
  | .refclk => 0x4C

/-- The registers of the optional map (20_memory.md R65). -/
def Reg.all : List Reg :=
  [.txwin, .hcsr, .rxwin, .ccsr, .stsA, .stsB, .counter, .lstate, .cmd, .arg0, .arg1, .result, .res0, .res1, .res2,
    .dbOut, .dbIn, .comm, .refclk]

/-- The first and the last offset of `OUT_MSG` in the optional map (20_memory.md R65). -/
def outMsgOffset : Nat := 0x100
/-- see `outMsgOffset` -/
def outMsgLast : Nat := 0x2FF

/-- The first and the last offset of `IN_MSG` in the optional map (20_memory.md R65). -/
def inMsgOffset : Nat := 0x300
/-- see `inMsgOffset` -/
def inMsgLast : Nat := 0x4FF

/-- What an offset of the optional map names: a register, or a byte of a window (20_memory.md R65). -/
inductive MapTarget
  | reg (r : Reg)
  | outMsg (i : Nat)
  | inMsg (i : Nat)
  deriving DecidableEq, Repr

/-- The optional map (20_memory.md R65); `none` at an offset that the map does not name. -/
def mapTarget (a : Nat) : Option MapTarget :=
  if outMsgOffset ≤ a ∧ a ≤ outMsgLast then some (.outMsg (a - outMsgOffset))
  else if inMsgOffset ≤ a ∧ a ≤ inMsgLast then some (.inMsg (a - inMsgOffset))
  else (Reg.all.find? fun r => decide (r.offset = a)).map .reg

end Sys2Proof.Machine
end

