-- ==== Sys2Proof/Machine/Operands.lean ====
section
/-! DEFINITION. Operand computations: durations and ticks (40_timer.md R111), payload packing and the
fragmentation plan (41_codec.md R127 to R136), the category of a message (43_trust.md R178). Pure functions. -/

namespace Sys2Proof.Machine

/-! ### Durations -/

/-- `T_RW` in microseconds (00_scope.md R5). -/
def tRw : Nat := 5000000

/-- `T_RESET` in microseconds (00_scope.md R5). -/
def tReset : Nat := 15000000

/-- `T_INIT` in microseconds (00_scope.md R5). -/
def tInit : Nat := 15000000

/-- `TicksOf(us)`, rounded down, no intermediate overflow (40_timer.md R111). -/
def ticksOf (c : Config) (us : Nat) : Nat := us * c.tickHz / 1000000

/-- A natural is a counter value: below `2^CW` (40_timer.md R112, R114). -/
def isCounterValue (c : Config) (n : Nat) : Bool := decide (n < 2 ^ c.cw)

/-- The deadline `(start + ticks) mod 2^CW` (40_timer.md R112). -/
def deadline (c : Config) (start us : Nat) : Nat := (start + ticksOf c us) % 2 ^ c.cw

/-! ### Packets -/

/-- `Words(len) = ceil(len / 4)` (41_codec.md R127). -/
def wordsOf (len : Nat) : Nat := (len + 3) / 4

/-- What byte `b` of payload word `i` contributes: `bytes[off + 4*i + b] << (8*b)`, or 0 for padding
(41_codec.md R128). -/
def packByte (bytes : Nat → Byte) (off plen i b : Nat) : Word :=
  if 4 * i + b < plen then (bytes (off + 4 * i + b)).setWidth 32 <<< (8 * b) else 0

/-- `PackWord(bytes, off, plen, i)` (41_codec.md R128). -/
def packWord (bytes : Nat → Byte) (off plen i : Nat) : Word :=
  packByte bytes off plen i 0 ||| packByte bytes off plen i 1 ||| packByte bytes off plen i 2 |||
    packByte bytes off plen i 3

/-- `UnpackByte(w, b)` (41_codec.md R129). -/
def unpackByte (w : Word) (b : Nat) : Byte := w.extractLsb' (8 * b) 8

/-- `MaxPay(depth) = min(4 * (depth - 1), 511)` (41_codec.md R133). -/
def maxPay (depth : BitVec 8) : Nat := min (4 * (depth.toNat - 1)) 511

/-- The number of packets of a non-empty message: `ceil(len / maxpay)` (41_codec.md R134). -/
def packetCount (len maxpay : Nat) : Nat := (len + maxpay - 1) / maxpay

/-- `Plan(len, maxpay)` (41_codec.md R134): one empty packet for an empty message, else `packetCount` packets cut
greedily, the completion flag on the last. -/
def plan (len maxpay : Nat) : List Packet :=
  if len = 0 then [{ off := 0, plen := 0, mc := true }]
  else
    (List.range (packetCount len maxpay)).map fun i =>
      { off := i * maxpay, plen := min maxpay (len - i * maxpay), mc := decide (i + 1 = packetCount len maxpay) }

/-- The ring words of one packet: the header, then the payload words in order (30_encoding.md R83). -/
def packetWords (src dst : Byte) (bytes : Nat → Byte) (p : Packet) : List Word :=
  encodeHeader src dst (BitVec.ofNat 9 p.plen) p.mc :: (List.range (wordsOf p.plen)).map (packWord bytes p.off p.plen)

/-- `EncodeMessage` of the `len` bytes `bytes 0 ..` (41_codec.md R135). -/
def encodeMessage (src dst : Byte) (bytes : Nat → Byte) (len maxpay : Nat) : List Word :=
  (plan len maxpay).flatMap (packetWords src dst bytes)

/-- The `len` payload bytes of the payload words `ws` (41_codec.md R129). -/
def unpackBytes (ws : List Word) (len : Nat) : List Byte :=
  (List.range len).map fun k => unpackByte (ws.getD (k / 4) 0) (k % 4)

/-- `DecodeMessage` on at most `fuel` packets (41_codec.md R136): the bytes, the last header, the words left over;
`none` when the words end before a packet with `MC = 1` has been read whole. -/
def decodePackets : Nat → List Word → Option (List Byte × Header × List Word)
  | 0, _ => none
  | _ + 1, [] => none
  | fuel + 1, w :: ws =>
    let h := decodeHeader w
    let k := wordsOf h.len.toNat
    if ws.length < k then none
    else
      let payload := unpackBytes (ws.take k) h.len.toNat
      if h.mc then some (payload, h, ws.drop k)
      else
        match decodePackets fuel (ws.drop k) with
        | none => none
        | some (bytes, last, rest) => some (payload ++ bytes, last, rest)

/-- `DecodeMessage(words)` (41_codec.md R136). -/
def decodeMessage (words : List Word) : Option (List Byte × Header × List Word) := decodePackets words.length words

/-- The bytes of a header word in a doorbell window, least significant first (44_doorbell.md R190). -/
def headerByte (hw : Word) (k : Nat) : Byte := unpackByte hw k

/-- The header word gathered so far with window byte `k` added (44_doorbell.md R199). -/
def gatherHeader (acc : Word) (k : Nat) (b : Byte) : Word := acc ||| (b.setWidth 32 <<< (8 * k))

/-! ### Categories (43_trust.md R176, R178) -/

/-- `CAT_OTHER`, the last category. -/
def catOther (c : Config) : Nat := c.ncat - 1

/-- A line of `CATEGORY_OF` covers a pair. -/
def catRuleCovers (r : CatRule) (group : Byte) (command : BitVec 7) : Bool :=
  decide (r.group = group) && (match r.command with
    | none => true
    | some k => decide (k = command))

/-- The first line that covers the pair, else `CAT_OTHER`. -/
def categoryIn (other : Nat) (group : Byte) (command : BitVec 7) : List CatRule → Nat
  | [] => other
  | r :: rs => if catRuleCovers r group command then r.cat else categoryIn other group command rs

/-- `CATEGORY_OF(group, command)` (43_trust.md R178). -/
def categoryOf (c : Config) (group : Byte) (command : BitVec 7) : Nat :=
  categoryIn (catOther c) group command c.catRules

end Sys2Proof.Machine
end

