-- ==== Sys2Proof/Machine/Flags.lean ====
section
/-! DEFINITION. Every test the commands decide by: the ring arithmetic (41_codec.md R130 to R132), the expiry test
(40_timer.md R113), the classification (43_trust.md R171) and the gate's verdict (R179). Pure functions. -/

namespace Sys2Proof.Machine

/-- `Filled(csr) = (WP - RP) mod 256` (41_codec.md R130). -/
def filled (c : Csr) : Nat := (c.wp - c.rp).toNat

/-- `Overflow(csr)`: `Filled > DEPTH` (41_codec.md R131). -/
def overflows (c : Csr) : Bool := decide (c.depth.toNat < filled c)

/-- `Space(csr) = DEPTH - Filled`, for a register that does not overflow (41_codec.md R132). -/
def space (c : Csr) : Nat := c.depth.toNat - filled c

/-- `Expired(start, end, now)` (40_timer.md R113): cases a and b, case c, case d. -/
def expired (start stop now : Nat) : Bool :=
  if start < stop then decide (stop ≤ now) || decide (now < start)
  else if stop < start then decide (stop < now) && decide (now < start)
  else true

/-- `Classify` (43_trust.md R171), its seven steps in order. -/
def classifyFields (k : StatusCodes) (err cur opmode : BitVec 4) (fptbad enf : Bool) : Path :=
  if opmode = k.opSps ∧ err = k.errNone then (if cur = k.curRecovery then .spsRcv else .sps)
  else if enf then .enforcementWithoutDidMsg
  else if opmode = k.opDebug then .debugMode
  else if opmode = k.opSecoverJmpr then .secoverJmpr
  else if opmode = k.opSwTempDisable then .swTempDisable
  else if opmode = k.opSecoverMeiMsg then .secoverMeiMsg
  else if err = k.errImageFailure then .errorWithoutDidMsg
  else if cur = k.curRecovery then .recovery
  else if fptbad ∨ err ≠ k.errNone then .error
  else .normal

/-- The path of a pair of status registers (43_trust.md R170, R173). -/
def classify (k : StatusCodes) (a b : Word) : Path :=
  classifyFields k (stsErr a) (stsCur a) (stsOpMode a) (stsFptBad a) (stsEnf b)

/-- The gate's verdict for a path and a category: the bit of `ALLOW_TABLE` (43_trust.md R179). -/
def gateAllows (c : Config) (p : Path) (cat : Nat) : Bool := (c.allowTable.get p).getLsbD cat

/-- A management event of an allowed sub-command (44_doorbell.md R193). -/
def isMgmtEvent (c : Config) (d : Doorbell) (allowed : List (BitVec 4)) : Bool :=
  decide (d.proto = c.dbProtoMgmt) && allowed.contains d.subcmd

/-- A header and its doorbell agree and the payload fits the window (44_doorbell.md R199). -/
def doorbellHeaderOk (c : Config) (d : Doorbell) (h : Header) : Bool :=
  decide (h.len.toNat ≤ c.dbMaxPay) && decide (d.len.toNat = 4 + h.len.toNat)

end Sys2Proof.Machine
end

