-- ==== Sys2Proof/Machine/Ops.lean ====
section
/-! DEFINITION. The named operations over memory and registers that every command is built from: byte memory,
`RegRead` and `RegWrite`, `TxPush`, `RxPop` (20_memory.md R56 to R60), `return` and `fail` (60_exceptions.md R221,
R223), which stand in the place of taking an exception, and the environment's moves (20_memory.md R66 to R74). -/

namespace Sys2Proof.Machine

/-- The outcome of a step of this machine. -/
abbrev Outcome := Host.Outcome State Fault Refusal

/-! ### Byte memory -/

/-- What an unlisted byte of `MSGBUF` or of a window reads as. DESIGN CHOICE (log 7). -/
def unlistedByte : Byte := 0

/-- Reading one byte: `MemRead(i, 1)` (20_memory.md R58). -/
def memRead : Memory → Nat → Byte
  | [], _ => unlistedByte
  | (b, v) :: m, a => if a = b then v else memRead m a

/-- Writing one byte: `MemWrite(i, 1, b)` (20_memory.md R58), in canonical form. -/
def memWrite : Memory → Nat → Byte → Memory
  | [], a, v => if v = unlistedByte then [] else [(a, v)]
  | (b, w) :: m, a, v =>
    if a < b then (if v = unlistedByte then (b, w) :: m else (a, v) :: (b, w) :: m)
    else if a = b then (if v = unlistedByte then m else (a, v) :: m)
    else (b, w) :: memWrite m a v

/-- Every address of the memory is above `lo`, rising strictly, and no cell holds the unlisted byte. -/
def Memory.wfAbove : Option Nat → Memory → Bool
  | _, [] => true
  | lo, (a, v) :: m =>
    (match lo with
      | none => true
      | some b => decide (b < a)) && decide (v ≠ unlistedByte) && Memory.wfAbove (some a) m

/-- The canonical form of a memory. -/
def Memory.wf (m : Memory) : Bool := Memory.wfAbove none m

/-- The bytes `0 .. n-1` of a memory. -/
def memBytes (m : Memory) (n : Nat) : List Byte := (List.range n).map (memRead m)

/-- The size of a doorbell window: `4 + DB_MAXPAY` (10_state.md R31). -/
def windowSize (c : Config) : Nat := 4 + c.dbMaxPay

/-! ### The sequencer, `return` and `fail` -/

/-- The engine goes to a position (10_state.md R42). -/
def State.goto (s : State) (p : Pos) : State := { s with seq := .busy p }

/-- The engine enters `Poll(cond, T)` at its `StartTimer` (40_timer.md R116). -/
def State.poll (s : State) (w : Wait) : State := s.goto (.pollStart w)

/-- `return code` (60_exceptions.md R221): `RESULT <- code`, `SEQ <- IDLE`, and nothing else. -/
def State.ret (s : State) (c : ResultCode) : State := { s with result := c.code, seq := .idle }

/-- The abort bookkeeping of `fail` (60_exceptions.md R223), before its `return`. -/
def State.abort (s : State) (c : ResultCode) (moved : Bool) : State :=
  { s with
    lstate := if c = .notReady then .resetting else s.lstate
    resync := s.resync || moved || decide (c = .notReady) || decide (c = .protocolError) }

/-- `fail(code)` (60_exceptions.md R223). -/
def State.fail (s : State) (c : ResultCode) (moved : Bool) : State := (s.abort c moved).ret c

/-- `RES0 <- 0 ; fail(code)`, how a RECV fails (42_cb_transport.md R148, 44_doorbell.md R199). -/
def State.recvFail (s : State) (c : ResultCode) (moved : Bool) : State := { s with res0 := 0 }.fail c moved

/-- The end of a RECV that drained a whole message: `RES0 <- n ; RES1 <- hw ; RES2 <- total`, and the code
(42_cb_transport.md R148, 44_doorbell.md R199). A total that does not fit `RES2` leaves a free value there (log 9). -/
def State.recvDone (s : State) (c : RecvCtx) (hw : Word) : State :=
  { s with
    res0 := BitVec.ofNat 32 c.n
    res1 := hw
    res2 := if c.total < 2 ^ 32 then BitVec.ofNat 32 c.total else Config.unstatedTotal s.draws
    draws := if c.total < 2 ^ 32 then s.draws else s.draws + 1 }.ret
    (if c.small then .bufferTooSmall else .success)

/-- `LSTATE <- l`. -/
def State.setLink (s : State) (l : LState) : State := { s with lstate := l }

/-- The end of a successful INIT: `LSTATE <- READY ; return SUCCESS` (42_cb_transport.md R141). -/
def State.linkUp (s : State) : State := (s.setLink .ready).ret .success

/-- The end of a successful LRESET: `RESYNC <- 0 ; LSTATE <- READY ; return SUCCESS` (42_cb_transport.md R152). -/
def State.linkResynced (s : State) : State := { s with resync := false }.linkUp

/-! ### Register access -/

/-- `Now()` (40_timer.md R110): the value of `COUNTER`, in `0 .. 2^CW - 1` (10_state.md R22). -/
def State.now (s : State) : Nat := s.counter.toNat % 2 ^ s.cfg.cw

/-- `RegRead(r)` (20_memory.md R60): the 32 bits of a register; `none` for the ring windows of the optional map,
which are `TxPush` and `RxPop` (R65). -/
def State.regRead (s : State) : Reg → Option Word
  | .txwin => none
  | .rxwin => none
  | .hcsr => some s.hcsr.toWord
  | .ccsr => some s.ccsr.toWord
  | .stsA => some s.stsA
  | .stsB => some s.stsB
  | .counter => some (BitVec.ofNat 32 s.now)
  | .lstate => some (s.lstate.code.setWidth 32 ||| ((BitVec.ofBool s.resync).setWidth 32 <<< 2))
  | .cmd => some s.cmd
  | .arg0 => some s.arg0
  | .arg1 => some s.arg1
  | .result => some (s.result.setWidth 32)
  | .res0 => some s.res0
  | .res1 => some s.res1
  | .res2 => some s.res2
  | .dbOut => some s.dbOut.toWord
  | .dbIn => some s.dbIn.toWord
  | .comm => some s.comm.toWord
  | .refclk => some s.refclk

/-- An event is appended to `TRACE` (10_state.md R32). -/
def State.emit (s : State) (e : Event) : State := { s with trace := s.trace ++ [e] }

/-- `RegWrite(HCSR, ...)` of the flags named, `none` for a flag not named (20_memory.md R60). `WP`, `RP`, `DEPTH` and
`IS` are never changed. -/
def State.writeHcsr (s : State) (rst rdy ig : Option Bool) : State :=
  let h := { s.hcsr with rst := rst.getD s.hcsr.rst, rdy := rdy.getD s.hcsr.rdy, ig := ig.getD s.hcsr.ig }
  { s with hcsr := h }.emit (.writeReg .hcsr h.toWord)

/-- `RegWrite(DB_OUT, ...)`, whole (10_state.md R28). -/
def State.writeDbOut (s : State) (d : Doorbell) : State := { s with dbOut := d }.emit (.writeReg .dbOut d.toWord)

/-- The doorbell register with every field 0. -/
def Doorbell.zero : Doorbell := { len := 0, proto := 0, subcmd := 0, busy := false }

/-- `RegWrite(DB_IN, 0)`: the inbound event is consumed (44_doorbell.md R193). -/
def State.clearDbIn (s : State) : State :=
  { s with dbIn := Doorbell.zero }.emit (.writeReg .dbIn Doorbell.zero.toWord)

/-- `RegWrite(COMM, ...)` setting the bits named (44_doorbell.md R195). -/
def State.setComm (s : State) (host loaded ready : Bool) : State :=
  let c : Comm :=
    { hostReady := s.comm.hostReady || host, drvLoaded := s.comm.drvLoaded || loaded,
      drvReady := s.comm.drvReady || ready }
  { s with comm := c }.emit (.writeReg .comm c.toWord)

/-- `RegWrite(REFCLK, w)` (10_state.md R30). -/
def State.writeRefclk (s : State) (w : Word) : State := { s with refclk := w }.emit (.writeReg .refclk w)

/-! ### Ring and byte access -/

/-- `TxPush(w)` (20_memory.md R56). -/
def State.txPush (s : State) (w : Word) : State :=
  { s with txring := s.txring ++ [w], hcsr := { s.hcsr with wp := s.hcsr.wp + 1 } }.emit (.push w)

/-- The word `RxPop()` answers: the front of `RXRING`, or a free value when it is empty (20_memory.md R57, log 8). -/
def State.rxFront (s : State) : Word :=
  match s.rxring with
  | [] => Config.emptyPopWord s.draws
  | w :: _ => w

/-- `RxPop()` (20_memory.md R57): the pointer advances in both cases. -/
def State.rxPop (s : State) : State :=
  { s with
    rxring := s.rxring.tail
    draws := if s.rxring.isEmpty then s.draws + 1 else s.draws
    ccsr := { s.ccsr with rp := s.ccsr.rp + 1 } }.emit (.pop s.rxFront)

/-- `MemWrite(i, 1, b)` of `MSGBUF` (20_memory.md R58). -/
def State.msgWrite (s : State) (i : Nat) (b : Byte) : State := { s with msgbuf := memWrite s.msgbuf i b }

/-- A write of byte `i` of `OUT_MSG`; a byte beyond the window does not exist (10_state.md R31). -/
def State.outWrite (s : State) (i : Nat) (b : Byte) (next : State → State) : Outcome :=
  if i < windowSize s.cfg then .next (next { s with outMsg := memWrite s.outMsg i b })
  else .fault .windowOutOfRange

/-- A read of byte `i` of `IN_MSG`; a byte beyond the window does not exist (10_state.md R31). -/
def State.inRead (s : State) (i : Nat) (next : Byte → State) : Outcome :=
  if i < windowSize s.cfg then .next (next (memRead s.inMsg i)) else .fault .windowOutOfRange

/-- The event of a finished write of the first `n` bytes of `OUT_MSG` (10_state.md R32, log 12). -/
def State.emitWindow (s : State) (n : Nat) : State := s.emit (.writeWin (memBytes s.outMsg n))

/-! ### The environment's moves (20_memory.md R66 to R74) -/

/-- `n` ticks: `COUNTER <- (COUNTER + n) mod 2^CW` (20_memory.md R71). -/
def State.tick (s : State) (n : Nat) : State :=
  { s with counter := BitVec.ofNat 32 ((s.counter.toNat + n) % 2 ^ s.cfg.cw) }

/-- R66. -/
def State.consume (s : State) : State :=
  match s.txring with
  | [] => s
  | _ :: rest => { s with txring := rest, hcsr := { s.hcsr with rp := s.hcsr.rp + 1 } }

/-- R67. -/
def State.produce (s : State) (w : Word) : State :=
  { s with rxring := s.rxring ++ [w], ccsr := { s.ccsr with wp := s.ccsr.wp + 1 } }

/-- R68. -/
def Csr.withFlag (c : Csr) (v : Bool) : CsrFlag → Csr
  | .rst => { c with rst := v }
  | .rdy => { c with rdy := v }
  | .ig => { c with ig := v }
  | .is => { c with is := v }

/-- R69: taken while `HCSR.RST = 1`; empties the rings, zeroes the four pointers, clears `HCSR.RDY`. -/
def State.acceptReset (s : State) : State :=
  if s.hcsr.rst then
    { s with
      txring := []
      rxring := []
      hcsr := { s.hcsr with rdy := false, wp := 0, rp := 0 }
      ccsr := { s.ccsr with wp := 0, rp := 0 } }
  else s

/-- R74: the front word of `TXRING` goes to `RXRING` while there is room. -/
def State.loopback (s : State) : State :=
  match s.txring with
  | [] => s
  | w :: _ => if s.rxring.length < s.cfg.cdepth.toNat then s.consume.produce w else s

/-- R72, only in the doorbell kind. -/
def State.whenDoorbell (s : State) (next : State) : State := if s.cfg.kind = .doorbell then next else s

/-- One move of the environment. A move whose condition does not hold leaves the state as it is (log 2). -/
def State.envMove (s : State) : EnvMove → State
  | .consume => s.consume
  | .produce w => s.produce w
  | .ccsrFlag f v => { s with ccsr := s.ccsr.withFlag v f }
  | .hcsrIs v => { s with hcsr := { s.hcsr with is := v } }
  | .clearHcsrIg => { s with hcsr := { s.hcsr with ig := false } }
  | .acceptReset => s.acceptReset
  | .disturbPointers cw cr hr =>
    { s with ccsr := { s.ccsr with wp := cw, rp := cr }, hcsr := { s.hcsr with rp := hr } }
  | .disturbRing ws => if ws.length ≤ s.rxring.length then { s with rxring := ws } else s
  | .loseTxWord i =>
    if s.cfg.hdepth.toNat < s.txring.length then { s with txring := s.txring.eraseIdx i } else s
  | .ticks n => s.tick n
  | .stsA w => { s with stsA := w }
  | .stsB w => { s with stsB := w }
  | .takeOut => s.whenDoorbell { s with dbOut := { s.dbOut with busy := false } }
  | .writeInMsg i b =>
    s.whenDoorbell
      (if s.dbIn.busy = false ∧ i < windowSize s.cfg then { s with inMsg := memWrite s.inMsg i b } else s)
  | .postIn w =>
    s.whenDoorbell (if s.dbIn.busy = false then { s with dbIn := { Doorbell.ofWord w with busy := true } } else s)
  | .forceIn w => s.whenDoorbell { s with dbIn := Doorbell.ofWord w }
  | .loopback => s.loopback

/-- Moves of the environment, one after another. -/
def State.envMoves (s : State) : List EnvMove → State
  | [] => s
  | m :: ms => (s.envMove m).envMoves ms

/-- The environment's moves before the next engine step are made (20_memory.md R61); a schedule that has ended
holds no more moves (log 2). -/
def State.advance (s : State) : State :=
  match s.env with
  | [] => s
  | ms :: later => { s with env := later }.envMoves ms

end Sys2Proof.Machine
end

