-- ==== Sys2Proof/Machine/Client.lean ====
section
/-! DEFINITION. The client at the command port: its moves while the engine is idle (10_state.md R40 to R42,
70_reset_and_hazards.md R243, R244), and the command syntax of 30_encoding.md R99 and R100 with its expansion into
such moves. -/

namespace Sys2Proof.Machine

/-! ### Moves -/

/-- One move of the client. -/
def State.clientMove (s : State) : ClientMove → State
  | .writeArg0 w => { s with arg0 := w }
  | .writeArg1 w => { s with arg1 := w }
  | .writeMsg i b => s.msgWrite i b
  | .writeCmd w => { s with cmd := w, seq := .issued }
  | .skipUnless code n => if s.result = code.code then s else { s with client := s.client.drop n }

/-- The next move of the client is made; with none left, nothing happens. -/
def State.clientStep (s : State) : State :=
  match s.client with
  | [] => s
  | m :: ms => { s with client := ms }.clientMove m

/-- A step of the idle machine: the environment's moves, then the client's next move. -/
def idleStep (s : State) : State := s.advance.clientStep

/-! ### Command syntax -/

/-- A command as the vectors write it (30_encoding.md R99), and the three pseudo-commands (R100). -/
inductive ClientCommand
  | tstart (us : Nat)
  | texpired (start stop : Nat)
  | init
  | send (dst src : Nat) (bytes : List Byte)
  | recvB (max : Nat)
  | recvNB (max : Nat)
  | lreset
  | classify
  | hidemask
  | allowmask
  /-- `RECV max` -/
  | recv (max : Nat)
  /-- `RESYNC` -/
  | resync
  /-- `SENDRECV dst, src, bytes, max` -/
  | sendRecv (dst src : Nat) (bytes : List Byte) (max : Nat)
  deriving DecidableEq, Repr

/-- The numbers of a command fit their registers and fields. -/
def ClientCommand.wf : ClientCommand → Bool
  | .tstart us => decide (us < 2 ^ 32)
  | .texpired start stop => decide (start < 2 ^ 32) && decide (stop < 2 ^ 32)
  | .send dst src bytes => decide (dst < 256) && decide (src < 256) && decide (bytes.length < 2 ^ 32)
  | .recvB max => decide (max < 2 ^ 32)
  | .recvNB max => decide (max < 2 ^ 32)
  | .recv max => decide (max < 2 ^ 32)
  | .sendRecv dst src bytes max =>
    decide (dst < 256) && decide (src < 256) && decide (bytes.length < 2 ^ 32) && decide (max < 2 ^ 32)
  | _ => true

/-- The writes of a message to `MSGBUF` from index `i`. -/
def messageWrites : Nat → List Byte → List ClientMove
  | _, [] => []
  | i, b :: bs => .writeMsg i b :: messageWrites (i + 1) bs

/-- The command word of a command goes to `CMD`. -/
def issue (i : Instr) : ClientMove := .writeCmd (encode i)

/-- SEND's writes: the bytes, `ARG0`, then `CMD` (30_encoding.md R99, 70_reset_and_hazards.md R243). -/
def sendMoves (dst src : Nat) (bytes : List Byte) : List ClientMove :=
  messageWrites 0 bytes ++
    [.writeArg0 (BitVec.ofNat 32 bytes.length), issue (.send (BitVec.ofNat 8 dst) (BitVec.ofNat 8 src))]

/-- RECV's writes. -/
def recvMoves (blk : Bool) (max : Nat) : List ClientMove := [.writeArg0 (BitVec.ofNat 32 max), issue (.recv blk)]

/-- The client's writes for a command, operands first and `CMD` last (30_encoding.md R99, R100). -/
def ClientCommand.moves : ClientCommand → List ClientMove
  | .tstart us => [.writeArg0 (BitVec.ofNat 32 us), issue .tstart]
  | .texpired start stop =>
    [.writeArg0 (BitVec.ofNat 32 start), .writeArg1 (BitVec.ofNat 32 stop), issue .texpired]
  | .init => [issue .init]
  | .send dst src bytes => sendMoves dst src bytes
  | .recvB max => recvMoves true max
  | .recvNB max => recvMoves false max
  | .lreset => [issue .lreset]
  | .classify => [issue .classify]
  | .hidemask => [issue .hidemask]
  | .allowmask => [issue .allowmask]
  | .recv max => recvMoves true max
  | .resync => [issue .lreset]
  | .sendRecv dst src bytes max =>
    sendMoves dst src bytes ++ .skipUnless .success (recvMoves true max).length :: recvMoves true max

end Sys2Proof.Machine
end

