-- ==== Sys2Proof/Machine/Circular.lean ====
section
/-! DEFINITION. The positions of INIT, SEND, RECV and LRESET for `TRANSPORT_KIND = CIRCULAR` (42_cb_transport.md): one
function for each atomic access of the pseudocode, on the state in which the environment's moves before that access
have been made. What the pseudocode does between two accesses happens with the earlier one (log 13). -/

namespace Sys2Proof.Machine

/-! ### Poll conditions -/

/-- `CtrlReadyCond()` (R141). -/
def ctrlReadyCond (s : State) : CondResult := if s.ccsr.rdy then .ok else .wait

/-- `HostReadyClearCond()` (R152). -/
def hostReadyClearCond (s : State) : CondResult := if s.hcsr.rdy then .wait else .ok

/-- `TxSpaceCond(need)` (R142): the overflow test first, on the same snapshot. -/
def txSpaceCond (s : State) (need : Nat) : CondResult :=
  if overflows s.hcsr then .err .overflow else if need ≤ space s.hcsr then .ok else .wait

/-- `RxWordCond()` (R146): the overflow test first, on the same snapshot. -/
def rxWordCond (s : State) : CondResult :=
  if overflows s.ccsr then .err .overflow else if 1 ≤ filled s.ccsr then .ok else .wait

/-! ### INIT (R141) -/

/-- After INIT's wait. -/
def initReadyEnd (s : State) : PollEnd → State
  | .ok => s.goto .initWrite
  | .err _ => s.ret .timeout

/-- `RegWrite(HCSR, RST = 0, RDY = 1, IG = 1) ; LSTATE <- READY ; return SUCCESS`. -/
def initWrite (s : State) : State := (s.writeHcsr (some false) (some true) (some true)).linkUp

/-! ### SEND (R142 to R145) -/

/-- The words a packet needs: the header and its payload words (R143). -/
def packetNeed (p : Packet) : Nat := wordsOf p.plen + 1

/-- `TxSend` at its first packet (R144). -/
def txSendBegin (s : State) (dst src : Byte) (len : Nat) : State :=
  match plan len (maxPay s.cfg.hdepth) with
  | [] => s.ret .success
  | p :: ps => s.poll (.sendRoom { dst := dst, src := src, cur := p, rest := ps, acked := false, moved := false })

/-- `TxSend` after a packet: the next one, or `return SUCCESS` (R144). -/
def txSendNext (s : State) (c : SendCtx) : State :=
  match c.rest with
  | [] => s.ret .success
  | p :: ps => s.poll (.sendRoom { c with cur := p, rest := ps })

/-- After the room wait (R143). -/
def sendRoomEnd (s : State) (c : SendCtx) : PollEnd → State
  | .ok => s.goto (.sendHeader c)
  | .err e => s.fail e c.moved

/-- `SendPacket` with `i` payload words pushed: the next one, or the notification (R143). -/
def sendNextWord (s : State) (c : SendCtx) (i : Nat) : State :=
  if i < wordsOf c.cur.plen then s.goto (.sendByte c i 0 0) else s.goto (.sendNotify c)

/-- `TxPush(EncodeHeader(src, dst, plen, mc))` (R143). -/
def sendHeader (s : State) (c : SendCtx) : State :=
  sendNextWord (s.txPush (encodeHeader c.src c.dst (BitVec.ofNat 9 c.cur.plen) c.cur.mc)) { c with moved := true } 0

/-- `PackWord` reads byte `b` of payload word `i` (R143, 41_codec.md R128). -/
def sendByte (s : State) (c : SendCtx) (i b : Nat) (acc : Word) : State :=
  let acc' := acc ||| packByte (memRead s.msgbuf) c.cur.off c.cur.plen i b
  if b < 3 ∧ 4 * i + (b + 1) < c.cur.plen then s.goto (.sendByte c i (b + 1) acc') else s.goto (.sendWord c i acc')

/-- `TxPush(PackWord(bytes, off, plen, i))` (R143). -/
def sendWord (s : State) (c : SendCtx) (i : Nat) (w : Word) : State :=
  sendNextWord (s.txPush w) { c with moved := true } (i + 1)

/-- `RegWrite(HCSR, IG = 1)` (R143). -/
def sendNotify (s : State) (c : SendCtx) : State := (s.writeHcsr none none (some true)).goto (.sendCheck c)

/-- The ready check after a packet (R143): `NOT_READY`, or the next packet. -/
def sendCheck (s : State) (c : SendCtx) : State :=
  if s.ccsr.rdy then txSendNext s c else s.fail .notReady c.moved

/-! ### RECV (R146 to R151) -/

/-- `LEN` of a packet's header word. -/
def headerLen (hw : Word) : Nat := (decodeHeader hw).len.toNat

/-- After the wait for a header (R148, R151). -/
def recvHeaderEnd (s : State) (c : RecvCtx) : PollEnd → State
  | .ok => s.goto (.recvPopHeader c)
  | .err e =>
    if e = .timeout ∧ c.first = true ∧ c.blocking = false then s.ret .noData else s.recvFail e c.moved

/-- A packet with its payload words below `p.i` read: the wait for the next one, or the ready check. -/
def recvNextWord (s : State) (c : RecvCtx) (p : RxPacket) : State :=
  if p.i < wordsOf (headerLen p.hw) then s.poll (.recvWord c p)
  else s.goto (.recvCheck { c with total := c.total + headerLen p.hw } p.hw)

/-- The header's `RxPop` (R148). -/
def recvPopHeader (s : State) (c : RecvCtx) : State :=
  recvNextWord s.rxPop { c with moved := true } { hw := s.rxFront, i := 0 }

/-- After the wait for a payload word (R148). -/
def recvWordEnd (s : State) (c : RecvCtx) (p : RxPacket) : PollEnd → State
  | .ok => s.goto (.recvPopWord c p)
  | .err e => s.recvFail e c.moved

/-- At byte `b` of a popped payload word: write it while there is room, drop it and what follows it in the word
otherwise, and skip padding (R148, R149). -/
def recvNextByte (s : State) (c : RecvCtx) (p : RxPacket) (w : Word) (b : Nat) : State :=
  if b < 4 ∧ 4 * p.i + b < headerLen p.hw then
    if c.n < c.max then s.goto (.recvByte c p w b)
    else recvNextWord s { c with small := true } { p with i := p.i + 1 }
  else recvNextWord s c { p with i := p.i + 1 }

/-- A payload word's `RxPop` (R148). -/
def recvPopWord (s : State) (c : RecvCtx) (p : RxPacket) : State :=
  recvNextByte s.rxPop { c with moved := true } p s.rxFront 0

/-- `MemWrite(n, 1, UnpackByte(w, b)) ; n <- n + 1` (R148). -/
def recvByte (s : State) (c : RecvCtx) (p : RxPacket) (w : Word) (b : Nat) : State :=
  recvNextByte (s.msgWrite c.n (unpackByte w b)) { c with n := c.n + 1 } p w (b + 1)

/-- The ready check after a packet, then the end of the message or the next packet (R148, R150). -/
def recvCheck (s : State) (c : RecvCtx) (hw : Word) : State :=
  if s.ccsr.rdy then
    if (decodeHeader hw).mc then s.recvDone c hw else s.poll (.recvHeader { c with first := false })
  else s.recvFail .notReady c.moved

/-! ### LRESET (R152) -/

/-- Step 1: `RegWrite(HCSR, RST = 1, IG = 1)`. -/
def lresetBegin (s : State) : State := (s.writeHcsr (some true) none (some true)).poll .resetAccepted

/-- After step 2. -/
def resetAcceptedEnd (s : State) : PollEnd → State
  | .ok => s.poll .resetReady
  | .err _ => s.ret .timeout

/-- After step 3. -/
def resetReadyEnd (s : State) : PollEnd → State
  | .ok => s.goto .lresetEnd
  | .err _ => s.ret .timeout

/-- Step 4: `RegWrite(HCSR, RST = 0, RDY = 1, IG = 1) ; RESYNC <- 0 ; LSTATE <- READY ; return SUCCESS`. -/
def lresetEnd (s : State) : State := (s.writeHcsr (some false) (some true) (some true)).linkResynced

end Sys2Proof.Machine
end

