-- ==== Sys2Proof/Machine/DoorbellKind.lean ====
section
/-! DEFINITION. The positions of INIT, SEND, RECV and LRESET for `TRANSPORT_KIND = DOORBELL` (44_doorbell.md): one
function for each atomic access of the pseudocode, on the state in which the environment's moves before that access
have been made. What the pseudocode does between two accesses happens with the earlier one (log 13). -/

namespace Sys2Proof.Machine

/-! ### Poll conditions (R192) -/

/-- `OutIdleCond()`. -/
def outIdleCond (s : State) : CondResult := if s.dbOut.busy then .wait else .ok

/-- `InBusyCond()`; the doorbell value the caller then examines is the `DB_IN` of the same state. -/
def inBusyCond (s : State) : CondResult := if s.dbIn.busy then .ok else .wait

/-! ### The handshake of INIT and LRESET (R195, R201, R202) -/

/-- `DbHandshake()` at its first access. -/
def hsBegin (s : State) (reset : Bool) : State := s.goto (.hsClearIn { reset := reset, round := 1, acks := 0 })

/-- A round: the write of `DB_HS_PAYLOAD` to `OUT_MSG`; an empty payload is an empty write (log 12). -/
def hsRound (s : State) (h : HsCtx) : State :=
  if s.cfg.dbHsPayload.isEmpty then (s.emitWindow 0).goto (.hsRing h) else s.goto (.hsPayload h 0)

/-- `RegWrite(DB_IN, 0)`. -/
def hsClearIn (s : State) (h : HsCtx) : State := s.clearDbIn.goto (.hsHostReady h)

/-- `RegWrite(COMM, HOST_READY = 1)`. -/
def hsHostReady (s : State) (h : HsCtx) : State := (s.setComm true false false).goto (.hsRefclk h)

/-- `RegWrite(REFCLK, DB_REFCLK)`. -/
def hsRefclk (s : State) (h : HsCtx) : State := (s.writeRefclk s.cfg.dbRefclk).goto (.hsLoaded h)

/-- `RegWrite(COMM, DRV_LOADED = 1)`. -/
def hsLoaded (s : State) (h : HsCtx) : State := (s.setComm false true false).goto (.hsReady h)

/-- `RegWrite(COMM, DRV_READY = 1)`, then the first round. -/
def hsReady (s : State) (h : HsCtx) : State := hsRound (s.setComm false false true) h

/-- Byte `k` of the write of `OUT_MSG`; the event with the last byte. -/
def hsPayload (s : State) (h : HsCtx) (k : Nat) : Outcome :=
  s.outWrite k (s.cfg.dbHsPayload.getD k 0) fun t =>
    if k + 1 < t.cfg.dbHsPayload.length then t.goto (.hsPayload h (k + 1))
    else (t.emitWindow t.cfg.dbHsPayload.length).goto (.hsRing h)

/-- `RegWrite(DB_OUT, DB_HS_DOORBELL)`. -/
def hsRing (s : State) (h : HsCtx) : State :=
  (s.writeDbOut (Doorbell.ofWord s.cfg.dbHsDoorbell)).poll (.hsIdle h)

/-- The end of a round: the second round, or the end of the command. -/
def hsRoundEnd (s : State) (h : HsCtx) : State :=
  if h.round = 1 then hsRound s { h with round := 2 }
  else if h.reset then s.linkResynced else s.linkUp

/-- `DbWaitAck` for the events still awaited in this round. -/
def hsAwait (s : State) (h : HsCtx) : State := if h.acks = 0 then hsRoundEnd s h else s.poll (.hsAck h)

/-- After the wait for an idle outbound doorbell. -/
def hsIdleEnd (s : State) (h : HsCtx) : PollEnd → State
  | .ok => hsAwait s { h with acks := s.cfg.dbHsAcks }
  | .err _ => s.ret .timeout

/-- After the wait for an inbound event (R193): a management event of either kind, in either round. -/
def hsAckEnd (s : State) (h : HsCtx) : PollEnd → State
  | .ok =>
    if isMgmtEvent s.cfg s.dbIn [s.cfg.dbSubCompletion, s.cfg.dbSubResetAck] then s.goto (.hsAckClear h)
    else s.ret .protocolError
  | .err _ => s.ret .timeout

/-- `RegWrite(DB_IN, 0)`: the event is consumed (R193). -/
def hsAckClear (s : State) (h : HsCtx) : State := hsAwait s.clearDbIn { h with acks := h.acks - 1 }

/-! ### SEND (R196, R197) -/

/-- The transfer at its first packet, after the size limit (R197). -/
def dbSendBegin (s : State) (dst src : Byte) (len : Nat) : State :=
  match plan len s.cfg.dbMaxPay with
  | [] => s.ret .success
  | p :: ps =>
    s.poll (.dbIdle { dst := dst, src := src, cur := p, rest := ps, acked := !ps.isEmpty, moved := false })

/-- A message over `DB_MAX_MSG` bytes (R197). -/
def dbOversize (c : Config) (len : Nat) : Bool :=
  match c.dbMaxMsg with
  | none => false
  | some m => decide (m < len)

/-- After a packet: the next one, or `return SUCCESS` (R197). -/
def dbSendNext (s : State) (c : SendCtx) : State :=
  match c.rest with
  | [] => s.ret .success
  | p :: ps => s.poll (.dbIdle { c with cur := p, rest := ps })

/-- After the wait before a packet (R196). -/
def dbIdleEnd (s : State) (c : SendCtx) : PollEnd → State
  | .ok => s.goto (.dbHeader c 0)
  | .err _ => s.fail .timeout c.moved

/-- At payload byte `k`: the next byte, or, when all are in the window, its event and the doorbell. -/
def dbNextByte (s : State) (c : SendCtx) (k : Nat) : State :=
  if k < c.cur.plen then s.goto (.dbRead c k) else (s.emitWindow (4 + c.cur.plen)).goto (.dbRing c)

/-- Byte `k` of the header, least significant first (R196). -/
def dbHeader (s : State) (c : SendCtx) (k : Nat) : Outcome :=
  s.outWrite k (headerByte (encodeHeader c.src c.dst (BitVec.ofNat 9 c.cur.plen) c.cur.mc) k) fun t =>
    if k < 3 then t.goto (.dbHeader c (k + 1)) else dbNextByte t c 0

/-- `MemRead` of payload byte `k` (R196). -/
def dbRead (s : State) (c : SendCtx) (k : Nat) : State :=
  s.goto (.dbWrite c k (memRead s.msgbuf (c.cur.off + k)))

/-- Payload byte `k` into window byte `4 + k` (R196). -/
def dbWrite (s : State) (c : SendCtx) (k : Nat) (v : Byte) : Outcome :=
  s.outWrite (4 + k) v fun t => dbNextByte t c (k + 1)

/-- The doorbell of a packet (R194, R196). -/
def packetDoorbell (cfg : Config) (p : Packet) : Doorbell :=
  { len := BitVec.ofNat 10 (4 + p.plen), proto := cfg.dbProtoPayload, subcmd := 0, busy := true }

/-- `RegWrite(DB_OUT, ...)`, then the two waits of a chunked message (R196). -/
def dbRing (s : State) (c : SendCtx) : State :=
  let t := s.writeDbOut (packetDoorbell s.cfg c.cur)
  if c.acked then t.poll (.dbDone { c with moved := true }) else dbSendNext t { c with moved := true }

/-- After the wait for the chunk to be taken (R196). -/
def dbDoneEnd (s : State) (c : SendCtx) : PollEnd → State
  | .ok => s.poll (.dbAck c)
  | .err _ => s.fail .timeout c.moved

/-- After the wait for the acknowledgement (R193, R196): a completion event only. -/
def dbAckEnd (s : State) (c : SendCtx) : PollEnd → State
  | .ok =>
    if isMgmtEvent s.cfg s.dbIn [s.cfg.dbSubCompletion] then s.goto (.dbAckClear c)
    else s.fail .protocolError c.moved
  | .err _ => s.fail .timeout c.moved

/-- `RegWrite(DB_IN, 0)`: the acknowledgement is consumed (R193). -/
def dbAckClear (s : State) (c : SendCtx) : State := dbSendNext s.clearDbIn { c with moved := true }

/-! ### RECV (R198 to R200) -/

/-- After the wait for an inbound doorbell (R199): the protocol test, then the header. -/
def dbEventEnd (s : State) (c : RecvCtx) : PollEnd → State
  | .ok =>
    if s.dbIn.proto = s.cfg.dbProtoPayload then s.goto (.dbInHeader c s.dbIn 0 0)
    else s.recvFail .protocolError c.moved
  | .err e =>
    if e = .timeout ∧ c.first = true ∧ c.blocking = false then s.ret .noData else s.recvFail .timeout c.moved

/-- At payload byte `k`: copy it while there is room, drop it and what follows it otherwise (R199). -/
def dbInNextByte (s : State) (c : RecvCtx) (hw : Word) (k : Nat) : State :=
  if k < (decodeHeader hw).len.toNat then
    if c.n < c.max then s.goto (.dbInRead c hw k) else s.goto (.dbInClear { c with small := true } hw)
  else s.goto (.dbInClear c hw)

/-- The length checks, with the whole header word read (R199). -/
def dbInCheck (s : State) (c : RecvCtx) (d : Doorbell) (hw : Word) : State :=
  if doorbellHeaderOk s.cfg d (decodeHeader hw) then dbInNextByte s c hw 0
  else s.recvFail .protocolError c.moved

/-- Byte `k` of the header word (R199). -/
def dbInHeader (s : State) (c : RecvCtx) (d : Doorbell) (k : Nat) (acc : Word) : Outcome :=
  s.inRead k fun b =>
    if k < 3 then s.goto (.dbInHeader c d (k + 1) (gatherHeader acc k b))
    else dbInCheck s c d (gatherHeader acc k b)

/-- The read of payload byte `k` (R199). -/
def dbInRead (s : State) (c : RecvCtx) (hw : Word) (k : Nat) : Outcome :=
  s.inRead (4 + k) fun b => s.goto (.dbInWrite c hw k b)

/-- `MemWrite(n, 1, IN_MSG[4 + k]) ; n <- n + 1` (R199). -/
def dbInWrite (s : State) (c : RecvCtx) (hw : Word) (k : Nat) (v : Byte) : State :=
  dbInNextByte (s.msgWrite c.n v) { c with n := c.n + 1 } hw (k + 1)

/-- `total <- total + h.LEN ; RegWrite(DB_IN, 0)`, then the end of the message or the next packet (R199). -/
def dbInClear (s : State) (c : RecvCtx) (hw : Word) : State :=
  let h := decodeHeader hw
  let c' := { c with total := c.total + h.len.toNat, first := false, moved := true }
  if h.mc then s.clearDbIn.recvDone c' hw else s.clearDbIn.poll (.dbEvent c')

end Sys2Proof.Machine
end

