-- ==== Sys2Proof/Machine/Gate.lean ====
section
/-! DEFINITION. `CurrentPath()` as its two register reads, the three status queries built on it, and the gate of SEND
(43_trust.md R173, R174, R179, R180). Nothing is cached (R182). -/

namespace Sys2Proof.Machine

/-! ### Queries -/

/-- `RegRead(STS_A)`. -/
def queryA (s : State) (q : Query) : State := s.goto (.queryB q s.stsA)

/-- What a query writes, given the path: CLASSIFY `RES0`, HIDEMASK and ALLOWMASK `RES0` and `RES1`. -/
def queryResult (s : State) (p : Path) : Query → State
  | .path => { s with res0 := pathCode p }
  | .hide => { s with res0 := s.cfg.hideTable.get p, res1 := pathCode p }
  | .allow => { s with res0 := s.cfg.allowTable.get p, res1 := pathCode p }

/-- `RegRead(STS_B)`, the classification of the two words read, the results, `return SUCCESS`. -/
def queryB (s : State) (q : Query) (a : Word) : State :=
  (queryResult s (classify s.cfg.codes a s.stsB) q).ret .success

/-! ### The gate (R179) and what SEND does after it (42_cb_transport.md R145, 44_doorbell.md R197) -/

/-- The transfer of the instance's kind. -/
def sendBegin (s : State) (g : GateCtx) : State :=
  match s.cfg.kind with
  | .circular => txSendBegin s g.dst g.src g.len
  | .doorbell => if dbOversize s.cfg g.len then s.ret .unsupported else dbSendBegin s g.dst g.src g.len

/-- SEND with the gate's verdict on a category: `UNSUPPORTED`, `NOT_READY`, or the transfer. -/
def gateEnd (s : State) (g : GateCtx) (p : Path) (cat : Nat) : State :=
  if gateAllows s.cfg p cat then
    if s.lstate = .ready then sendBegin s g else s.ret .notReady
  else s.ret .unsupported

/-- `RegRead(STS_A)`. -/
def gateA (s : State) (g : GateCtx) : State := s.goto (.gateB g s.stsA)

/-- `RegRead(STS_B)`; a message shorter than 2 bytes is `CAT_OTHER` (R178). -/
def gateB (s : State) (g : GateCtx) (a : Word) : State :=
  let p := classify s.cfg.codes a s.stsB
  if 2 ≤ g.len then s.goto (.gateGroup g p) else gateEnd s g p (catOther s.cfg)

/-- `MemRead(0,1)`. -/
def gateGroup (s : State) (g : GateCtx) (p : Path) : State :=
  s.goto (.gateCommand g p (cmdHeaderGroup (memRead s.msgbuf 0)))

/-- `MemRead(1,1)`, bits 6:0. -/
def gateCommand (s : State) (g : GateCtx) (p : Path) (group : Byte) : State :=
  gateEnd s g p (categoryOf s.cfg group (cmdHeaderCommand (memRead s.msgbuf 1)))

end Sys2Proof.Machine
end

