-- ==== Sys2Proof/Machine/Engine.lean ====
section
/-! DEFINITION. The engine: the timer positions (40_timer.md R110 to R114), `Poll` (R116), one atomic step at any
position (20_memory.md R61), and the run of a command (10_state.md R42). -/

namespace Sys2Proof.Machine

/-! ### TSTART and TEXPIRED -/

/-- `start <- Now()`, the deadline, the results (40_timer.md R112). -/
def tstartNow (s : State) (us : Nat) : State :=
  { s with res0 := BitVec.ofNat 32 s.now, res1 := BitVec.ofNat 32 (deadline s.cfg s.now us) }.ret .success

/-- `now <- Now()`, the expiry test, the result (40_timer.md R114). -/
def texpiredNow (s : State) (t : Timer) : State :=
  { s with res0 := if expired t.start t.stop s.now then 1 else 0 }.ret .success

/-! ### Poll -/

/-- The duration of a wait in microseconds (42_cb_transport.md R141, R143, R151, R152; 44_doorbell.md). -/
def waitDuration (c : Config) : Wait → Nat
  | .initReady => tInit
  | .sendRoom _ => tRw
  | .recvHeader r => if r.blocking || !r.first then tRw else 0
  | .recvWord _ _ => c.tWord
  | .resetAccepted => tReset
  | .resetReady => tReset
  | .hsIdle _ => c.tDb
  | .hsAck _ => c.tDb
  | .dbIdle _ => c.tDb
  | .dbDone _ => c.tDb
  | .dbAck _ => c.tDb
  | .dbEvent r => if r.blocking || !r.first then c.tDb else 0

/-- The condition of a wait, on the state at its register read. -/
def waitCond (s : State) : Wait → CondResult
  | .initReady => ctrlReadyCond s
  | .sendRoom c => txSpaceCond s (packetNeed c.cur)
  | .recvHeader _ => rxWordCond s
  | .recvWord _ _ => rxWordCond s
  | .resetAccepted => hostReadyClearCond s
  | .resetReady => ctrlReadyCond s
  | .hsIdle _ => outIdleCond s
  | .hsAck _ => inBusyCond s
  | .dbIdle _ => outIdleCond s
  | .dbDone _ => outIdleCond s
  | .dbAck _ => inBusyCond s
  | .dbEvent _ => inBusyCond s

/-- What the command does with the answer of a wait. -/
def waitEnd (s : State) (r : PollEnd) : Wait → State
  | .initReady => initReadyEnd s r
  | .sendRoom c => sendRoomEnd s c r
  | .recvHeader c => recvHeaderEnd s c r
  | .recvWord c p => recvWordEnd s c p r
  | .resetAccepted => resetAcceptedEnd s r
  | .resetReady => resetReadyEnd s r
  | .hsIdle h => hsIdleEnd s h r
  | .hsAck h => hsAckEnd s h r
  | .dbIdle c => dbIdleEnd s c r
  | .dbDone c => dbDoneEnd s c r
  | .dbAck c => dbAckEnd s c r
  | .dbEvent c => dbEventEnd s c r

/-- `(s, e) <- StartTimer(T)` (40_timer.md R116). -/
def pollStart (s : State) (w : Wait) : State :=
  s.goto (.pollCond w { start := s.now, stop := deadline s.cfg s.now (waitDuration s.cfg w) })

/-- `c <- cond() ; if c != WAIT: return c` (40_timer.md R116). -/
def pollCond (s : State) (w : Wait) (t : Timer) : State :=
  match waitCond s w with
  | .wait => s.goto (.pollNow w t)
  | .ok => waitEnd s .ok w
  | .err c => waitEnd s (.err c) w

/-- `now <- Now() ; if Expired(s, e, now): return TIMEOUT`, else once more (40_timer.md R116). -/
def pollNow (s : State) (w : Wait) (t : Timer) : State :=
  if expired t.start t.stop s.now then waitEnd s (.err .timeout) w else s.goto (.pollCond w t)

/-! ### One atomic step, and the run of a command -/

/-- The atomic access of a position and what the pseudocode does up to the next one, on the state in which the
environment's moves before it have been made. -/
def engineAct (s : State) : Pos → Outcome
  | .tstartNow us => .next (tstartNow s us)
  | .texpiredNow t => .next (texpiredNow s t)
  | .queryA q => .next (queryA s q)
  | .queryB q a => .next (queryB s q a)
  | .gateA g => .next (gateA s g)
  | .gateB g a => .next (gateB s g a)
  | .gateGroup g p => .next (gateGroup s g p)
  | .gateCommand g p group => .next (gateCommand s g p group)
  | .pollStart w => .next (pollStart s w)
  | .pollCond w t => .next (pollCond s w t)
  | .pollNow w t => .next (pollNow s w t)
  | .initWrite => .next (initWrite s)
  | .sendHeader c => .next (sendHeader s c)
  | .sendByte c i b acc => .next (sendByte s c i b acc)
  | .sendWord c i w => .next (sendWord s c i w)
  | .sendNotify c => .next (sendNotify s c)
  | .sendCheck c => .next (sendCheck s c)
  | .recvPopHeader c => .next (recvPopHeader s c)
  | .recvPopWord c p => .next (recvPopWord s c p)
  | .recvByte c p w b => .next (recvByte s c p w b)
  | .recvCheck c hw => .next (recvCheck s c hw)
  | .lresetBegin => .next (lresetBegin s)
  | .lresetEnd => .next (lresetEnd s)
  | .hsClearIn h => .next (hsClearIn s h)
  | .hsHostReady h => .next (hsHostReady s h)
  | .hsRefclk h => .next (hsRefclk s h)
  | .hsLoaded h => .next (hsLoaded s h)
  | .hsReady h => .next (hsReady s h)
  | .hsPayload h k => hsPayload s h k
  | .hsRing h => .next (hsRing s h)
  | .hsAckClear h => .next (hsAckClear s h)
  | .dbHeader c k => dbHeader s c k
  | .dbRead c k => .next (dbRead s c k)
  | .dbWrite c k v => dbWrite s c k v
  | .dbRing c => .next (dbRing s c)
  | .dbAckClear c => .next (dbAckClear s c)
  | .dbInHeader c d k acc => dbInHeader s c d k acc
  | .dbInRead c hw k => dbInRead s c hw k
  | .dbInWrite c hw k v => .next (dbInWrite s c hw k v)
  | .dbInClear c hw => .next (dbInClear s c hw)

/-- The engine spins: it is at a poll's expiry test, its timer has not expired, and the schedule holds no more
moves, so that every further iteration would find the same state (log 1). -/
def spins (s : State) : Pos → Bool
  | .pollNow _ t => s.env.isEmpty && !expired t.start t.stop s.now
  | _ => false

/-- The engine runs, at most `n` atomic steps, until the command has ended or the engine spins (log 1). Before each
step the environment makes its moves (20_memory.md R61). A state in which the command has not ended can be run on. -/
def engineRun : Nat → State → Outcome
  | 0, s => .next s
  | n + 1, s =>
    match s.seq with
    | .idle => .next s
    | .issued => .next s
    | .busy p =>
      if spins s p then .next s
      else
        match engineAct s.advance p with
        | .next s' => engineRun n s'
        | .fault f => .fault f
        | .refused r => .refused r

/-- The most atomic steps of one run (log 1): more than any command makes between two polls. -/
def runBound : Nat := 2 ^ 64

/-- A command whose first position, or whose early end, is in `s`, is run. -/
def runCommand (s : State) : Outcome := engineRun runBound s

end Sys2Proof.Machine
end

