-- ==== Sys2Proof/Machine/Timer.lean ====
section
/-! DEFINITION. The meanings of TSTART and TEXPIRED (40_timer.md R112, R114). They need no controller: neither tests
`DEVICE_PRESENT` or `LSTATE`. -/

namespace Sys2Proof.Machine

/-- TSTART up to its first access (R112). -/
def beginTstart (s : State) : State :=
  if isCounterValue s.cfg (ticksOf s.cfg s.arg0.toNat) then s.goto (.tstartNow s.arg0.toNat)
  else s.ret .unsupported

/-- TEXPIRED up to its first access (R114). -/
def beginTexpired (s : State) : State :=
  if isCounterValue s.cfg s.arg0.toNat && isCounterValue s.cfg s.arg1.toNat then
    s.goto (.texpiredNow { start := s.arg0.toNat, stop := s.arg1.toNat })
  else s.ret .unsupported

/-- TSTART (40_timer.md R112). -/
def execTstart (s : State) : Outcome := runCommand (beginTstart s)

/-- TEXPIRED (40_timer.md R114). -/
def execTexpired (s : State) : Outcome := runCommand (beginTexpired s)

end Sys2Proof.Machine
end

