-- ==== Sys2Proof/Machine/Transport.lean ====
section
/-! DEFINITION. The meanings of INIT, SEND, RECV and LRESET for both transport kinds (00_scope.md R7): the prelude of
each (42_cb_transport.md R140) and its first access. -/

namespace Sys2Proof.Machine

/-- INIT up to its first access (42_cb_transport.md R141, 44_doorbell.md R195). -/
def beginInit (s : State) : State :=
  if s.cfg.devicePresent then
    match s.lstate with
    | .ready => s.ret .success
    | .resetting => s.ret .notReady
    | .uninit =>
      match s.cfg.kind with
      | .circular => s.poll .initReady
      | .doorbell => hsBegin s false
  else s.ret .deviceNotPresent

/-- SEND up to its first access, the gate's read of `STS_A` (42_cb_transport.md R145, 44_doorbell.md R197). -/
def beginSend (a b : Byte) (s : State) : State :=
  if s.cfg.devicePresent then s.goto (.gateA { dst := a, src := b, len := s.arg0.toNat })
  else s.ret .deviceNotPresent

/-- The locals of a RECV at its start (42_cb_transport.md R148). -/
def recvStart (blocking : Bool) (max : Nat) : RecvCtx :=
  { blocking := blocking, max := max, n := 0, total := 0, small := false, first := true, moved := false }

/-- RECV up to its first access (42_cb_transport.md R148, 44_doorbell.md R199). -/
def beginRecv (blk : Bool) (s : State) : State :=
  if s.cfg.devicePresent then
    if s.lstate = .ready then
      match s.cfg.kind with
      | .circular => s.poll (.recvHeader (recvStart blk s.arg0.toNat))
      | .doorbell => s.poll (.dbEvent (recvStart blk s.arg0.toNat))
    else s.ret .notReady
  else s.ret .deviceNotPresent

/-- LRESET up to its first access (42_cb_transport.md R152, 44_doorbell.md R201). -/
def beginLreset (s : State) : State :=
  if s.cfg.devicePresent then
    if s.lstate = .uninit then s.ret .notReady
    else
      match s.cfg.kind with
      | .circular => (s.setLink .resetting).goto .lresetBegin
      | .doorbell => hsBegin (s.setLink .resetting) true
  else s.ret .deviceNotPresent

/-- INIT (42_cb_transport.md R141, 44_doorbell.md R195). -/
def execInit (s : State) : Outcome := runCommand (beginInit s)

/-- SEND (42_cb_transport.md R145, 44_doorbell.md R197): `a` the destination, `b` the source address. -/
def execSend (a b : Byte) (s : State) : Outcome := runCommand (beginSend a b s)

/-- RECV (42_cb_transport.md R148, 44_doorbell.md R199): `blk` true for blocking. -/
def execRecv (blk : Bool) (s : State) : Outcome := runCommand (beginRecv blk s)

/-- LRESET (42_cb_transport.md R152, 44_doorbell.md R201). -/
def execLreset (s : State) : Outcome := runCommand (beginLreset s)

end Sys2Proof.Machine
end

