-- ==== Sys2Proof/Machine/Trust.lean ====
section
/-! DEFINITION. The meanings of CLASSIFY, HIDEMASK and ALLOWMASK (43_trust.md R173, R174, R180). They do not depend on
`LSTATE`. -/

namespace Sys2Proof.Machine

/-- A status query up to its first access (43_trust.md R173). -/
def beginQuery (q : Query) (s : State) : State :=
  if s.cfg.devicePresent then s.goto (.queryA q) else s.ret .deviceNotPresent

/-- CLASSIFY (43_trust.md R173). -/
def execClassify (s : State) : Outcome := runCommand (beginQuery .path s)

/-- HIDEMASK (43_trust.md R174). -/
def execHidemask (s : State) : Outcome := runCommand (beginQuery .hide s)

/-- ALLOWMASK (43_trust.md R180). -/
def execAllowmask (s : State) : Outcome := runCommand (beginQuery .allow s)

end Sys2Proof.Machine
end

