-- ==== Sys2Proof/Machine/Dispatch.lean ====
section
/-! DEFINITION. One arm for each command (30_encoding.md R95). -/

namespace Sys2Proof.Machine

def exec (i : Instr) (s : State) : Host.Outcome State Fault Refusal :=
  match i with
  | .tstart => Sys2Proof.Machine.execTstart s
  | .texpired => Sys2Proof.Machine.execTexpired s
  | .init => Sys2Proof.Machine.execInit s
  | .send a b => Sys2Proof.Machine.execSend a b s
  | .recv blk => Sys2Proof.Machine.execRecv blk s
  | .lreset => Sys2Proof.Machine.execLreset s
  | .classify => Sys2Proof.Machine.execClassify s
  | .hidemask => Sys2Proof.Machine.execHidemask s
  | .allowmask => Sys2Proof.Machine.execAllowmask s

end Sys2Proof.Machine
end

