-- ==== Sys2Proof/Machine/Port.lean ====
section
/-! DEFINITION. The command port: the start of the command that `CMD` holds (10_state.md R42, 30_encoding.md R96), and
the optional register map of 20_memory.md R65 as accesses by offset, which no step makes. -/

namespace Sys2Proof.Machine

/-- The client writes `CMD`, which starts the command (10_state.md R40, R42). DESIGN CHOICE (log 28): in a state whose
command still runs, which 93_implementation_defined.md U8 leaves open and in which the client has no move
(70_reset_and_hazards.md R244), the running command is dropped and the new one is at its start. No step does this. -/
def State.writeCmd (s : State) (w : Word) : State := { s with cmd := w, seq := .issued }

/-- `CMD` is decoded and its command run; an illegal word ends `UNSUPPORTED` at once and changes nothing else
(30_encoding.md R96, 60_exceptions.md R222). -/
def startCommand (s : State) : Outcome :=
  match decodeWord s.cmd with
  | .ok i => exec i s
  | .error _ => .next (s.ret .unsupported)

/-! ### The optional register map (20_memory.md R65, log 27) -/

/-- A read of a register of the map: the word and the state after it. A read of `RXWIN` is `RxPop()`; `TXWIN` is
write-only; every other read changes nothing. DESIGN CHOICE (log 27): on a circular instance, which has no doorbell
unit (10_state.md section 7, 60_exceptions.md R229), the offsets of `DB_OUT`, `DB_IN`, `COMM` and `REFCLK` still answer
the stored fields, since R65 gives the offsets without condition. -/
def State.mapRead (s : State) (r : Reg) : Option (Word × State) :=
  match r with
  | .txwin => none
  | .rxwin => some (s.rxFront, s.rxPop)
  | r => (s.regRead r).map fun w => (w, s)

/-- A write of a register of the map. A write of `w` to `TXWIN` is `TxPush(w)`; `RXWIN` and `LSTATE` are read-only. The
engine's registers take the write of their fields (20_memory.md R60), `HCSR` of its three engine flags, and the command
port takes the client's; a register that neither of the two writes by an access takes none (DESIGN CHOICE, log 27).
DESIGN CHOICE (log 27): on a circular instance, which has no doorbell unit (10_state.md section 7, 60_exceptions.md
R229), the offsets of `DB_OUT`, `DB_IN`, `COMM` and `REFCLK` still write the stored fields. -/
def State.mapWrite (s : State) (r : Reg) (w : Word) : Option State :=
  match r with
  | .txwin => some (s.txPush w)
  | .hcsr => some (s.writeHcsr (some (w.getLsbD 24)) (some (w.getLsbD 25)) (some (w.getLsbD 26)))
  | .rxwin => none
  | .ccsr => none
  | .stsA => none
  | .stsB => none
  | .counter => none
  | .lstate => none
  | .cmd => some (s.writeCmd w)
  | .arg0 => some { s with arg0 := w }
  | .arg1 => some { s with arg1 := w }
  | .result => none
  | .res0 => none
  | .res1 => none
  | .res2 => none
  | .dbOut => some (s.writeDbOut (Doorbell.ofWord w))
  | .dbIn => some ({ s with dbIn := Doorbell.ofWord w }.emit (.writeReg .dbIn (Doorbell.ofWord w).toWord))
  | .comm => some ({ s with comm := Comm.ofWord w }.emit (.writeReg .comm (Comm.ofWord w).toWord))
  | .refclk => some (s.writeRefclk w)

/-- A read of a byte of a window by its offset in the map; a byte beyond the window does not exist (10_state.md R31).
DESIGN CHOICE (log 27): R65 does not say whether such a byte takes a write at its offset, and the model gives it none.
DESIGN CHOICE (log 27): on a circular instance, which has no doorbell unit (10_state.md section 7, 60_exceptions.md
R229), the windows' offsets 0x100 to 0x4FF still answer the stored bytes. -/
def State.mapReadByte (s : State) (a : Nat) : Option Byte :=
  match mapTarget a with
  | some (.outMsg i) => if i < windowSize s.cfg then some (memRead s.outMsg i) else none
  | some (.inMsg i) => if i < windowSize s.cfg then some (memRead s.inMsg i) else none
  | _ => none

end Sys2Proof.Machine
end

