-- ==== Sys2Proof/Machine/Step.lean ====
section
/-! DEFINITION. One step of the machine (log 1): a configuration that breaks 00_scope.md R6 is refused; an idle machine
lets the environment and the client move; an issued command is started and run; a running one is run on. -/

namespace Sys2Proof.Machine

/-- One step (log 1). -/
def step (s : State) : Host.Outcome State Fault Refusal :=
  if s.cfg.wf then
    match s.seq with
    | .idle => .next (idleStep s)
    | .issued => startCommand s
    | .busy _ => runCommand s
  else .refused .badConfiguration

/-- The command word of a table row is written to `CMD`, so that the next step runs it (log 4). -/
def State.withFetchWord (s : State) (nbits w : Nat) : State := s.writeCmd (commandWord nbits w)

end Sys2Proof.Machine
end

