-- ==== Sys2Proof/Safety.lean ====
section
/-! DEFINITION. What counts as a safe state and a safe run, the premises about the controller that 20_memory.md R73
names, and the ways of reading a trace. No step uses these definitions; the statements do. -/

namespace Sys2Proof.Machine

/-! ### The invariant of the machine -/

/-- Every cell of the memory lies below `n`. -/
def Memory.below (m : Memory) (n : Nat) : Prop := ∀ c ∈ m, c.1 < n

/-- What every state of CBPF satisfies: the memories are canonical and the windows have their size
(10_state.md R31), `DEPTH` holds the parameter (R14, R17), `COUNTER` is below `2^CW` (R22), `RESULT` holds a code
(60_exceptions.md R215). -/
structure State.Inv (s : State) : Prop where
  msgbuf : s.msgbuf.wf = true
  outMsg : s.outMsg.wf = true
  inMsg : s.inMsg.wf = true
  outWindow : s.outMsg.below (windowSize s.cfg)
  inWindow : s.inMsg.below (windowSize s.cfg)
  hdepth : s.hcsr.depth = s.cfg.hdepth
  cdepth : s.ccsr.depth = s.cfg.cdepth
  counter : s.counter.toNat < 2 ^ s.cfg.cw
  result : s.result.toNat ≤ 8

/-- The packets a SEND still holds fit the doorbell window. -/
def SendCtx.fits (c : Config) (x : SendCtx) : Bool :=
  decide (x.cur.plen ≤ c.dbMaxPay) && x.rest.all fun p => decide (p.plen ≤ c.dbMaxPay)

/-- A wait whose continuation addresses the windows inside their size. -/
def Wait.fits (c : Config) : Wait → Bool
  | .dbIdle x => x.fits c
  | .dbDone x => x.fits c
  | .dbAck x => x.fits c
  | _ => true

/-- A position that addresses the windows inside their size (10_state.md R31). -/
def Pos.fits (c : Config) : Pos → Bool
  | .pollStart w => w.fits c
  | .pollCond w _ => w.fits c
  | .pollNow w _ => w.fits c
  | .hsPayload _ k => decide (k < c.dbHsPayload.length)
  | .dbHeader x k => x.fits c && decide (k < 4)
  | .dbRead x k => x.fits c && decide (k < x.cur.plen)
  | .dbWrite x k _ => x.fits c && decide (k < x.cur.plen)
  | .dbRing x => x.fits c
  | .dbAckClear x => x.fits c
  | .dbInHeader _ _ k _ => decide (k < 4)
  | .dbInRead _ hw k => decide ((decodeHeader hw).len.toNat ≤ c.dbMaxPay) && decide (k < (decodeHeader hw).len.toNat)
  | .dbInWrite _ hw k _ =>
    decide ((decodeHeader hw).len.toNat ≤ c.dbMaxPay) && decide (k < (decodeHeader hw).len.toNat)
  | _ => true

/-- A safe state: a legal configuration, the invariant, and a position that fits. -/
structure State.Safe (s : State) : Prop where
  cfg : s.cfg.wf = true
  inv : s.Inv
  pos : ∀ p, s.seq = .busy p → p.fits s.cfg = true

/-! ### Premises about the environment -/

/-- The ticks that a list of moves holds. -/
def ticksIn : List EnvMove → Nat
  | [] => 0
  | .ticks n :: ms => n + ticksIn ms
  | _ :: ms => ticksIn ms

/-- `MAX_TICKS_PER_STEP` bounds the ticks between two engine steps (70_reset_and_hazards.md R252). -/
def ScheduleWithinTickBound (s : State) : Prop := ∀ ms ∈ s.env, ticksIn ms ≤ s.cfg.maxTicksPerStep

/-- Moves that are ticks only. -/
def ticksOnly (ns : List Nat) : List (List EnvMove) := ns.map fun n => [.ticks n]

/-- W1 of 20_memory.md R73 for one move in a state: no disturbance of pointers or ring contents, and a word is
produced only while there is room. -/
def EnvMove.orderly (s : State) : EnvMove → Bool
  | .disturbPointers _ _ _ => false
  | .disturbRing _ => false
  | .loseTxWord _ => false
  | .produce _ => decide (s.rxring.length < s.cfg.cdepth.toNat)
  | _ => true

/-- W3 of 20_memory.md R73 for one move: `CCSR.RDY` is not cleared. -/
def EnvMove.keepsReady : EnvMove → Bool
  | .ccsrFlag .rdy v => v
  | _ => true

/-- A command up to its first access, as `exec` runs it on. -/
def beginCommand : Instr → State → State
  | .tstart => beginTstart
  | .texpired => beginTexpired
  | .init => beginInit
  | .send a b => beginSend a b
  | .recv blk => beginRecv blk
  | .lreset => beginLreset
  | .classify => beginQuery .path
  | .hidemask => beginQuery .hide
  | .allowmask => beginQuery .allow

/-- A turn of the environment in an execution: a move, and the state that it meets. -/
structure EnvTurn where
  before : State
  move : EnvMove

/-- An execution from one state to another, in atomic steps (20_memory.md R61), with the environment's turns in it. The
turns may fall anywhere; the schedule `State.env` is one way to place them (log 2). -/
inductive Execution : State → List EnvTurn → State → Prop
  /-- no step -/
  | done (s : State) : Execution s [] s
  /-- a move of the environment -/
  | turn {s t : State} {τs : List EnvTurn} (m : EnvMove) :
    Execution (s.envMove m) τs t → Execution s ({ before := s, move := m } :: τs) t
  /-- an atomic step of the engine -/
  | engine {s u t : State} {τs : List EnvTurn} {p : Pos} :
    s.seq = .busy p → engineAct s p = .next u → Execution u τs t → Execution s τs t
  /-- the start of an issued command -/
  | start {s t : State} {τs : List EnvTurn} {i : Instr} :
    s.seq = .issued → decodeWord s.cmd = .ok i → Execution (beginCommand i s) τs t → Execution s τs t
  /-- the end of an illegal command word -/
  | illegal {s t : State} {τs : List EnvTurn} {e : DecodeError} :
    s.seq = .issued → decodeWord s.cmd = .error e → Execution (s.ret .unsupported) τs t → Execution s τs t
  /-- a move of the client -/
  | client {s t : State} {τs : List EnvTurn} (m : ClientMove) :
    s.seq = .idle → Execution (s.clientMove m) τs t → Execution s τs t

/-- The words that a turn produces into `RXRING` (20_memory.md R67, R74). -/
def EnvTurn.produced (τ : EnvTurn) : List Word :=
  match τ.move with
  | .produce w => [w]
  | .loopback => if τ.before.rxring.length < τ.before.cfg.cdepth.toNat then τ.before.txring.take 1 else []
  | _ => []

/-- At most `n` whole messages, and nothing after them. -/
def messagesIn : Nat → List Word → Bool
  | _, [] => true
  | 0, _ :: _ => false
  | n + 1, w :: ws =>
    match decodeMessage (w :: ws) with
    | some (_, _, rest) => messagesIn n rest
    | none => false

/-- The words are whole packets, grouped into whole messages (20_memory.md R73 W2). -/
def wholeMessages (ws : List Word) : Bool := messagesIn ws.length ws

/-- `CCSR.RDY` is 1 before some turn, no more than `budget` ticks on, or the stretch ends before they have passed
(log 29). -/
def readyWithin : Nat → List EnvTurn → Bool
  | _, [] => true
  | budget, τ :: τs =>
    τ.before.ccsr.rdy ||
      (decide (ticksIn [τ.move] ≤ budget) && readyWithin (budget - ticksIn [τ.move]) τs)

/-- A controller that is well-behaved over a stretch of an execution, given by the environment's turns in it and its
last state (20_memory.md R73). A name for premises; no step asks for it. -/
structure WellBehaved (τs : List EnvTurn) (t : State) : Prop where
  /-- W1: pointers and ring contents only by R66, R67 and R69, and room before a word is produced -/
  w1 : ∀ τ ∈ τs, τ.move.orderly τ.before = true
  /-- W2: the words produced are whole messages -/
  w2 : wholeMessages (τs.flatMap EnvTurn.produced) = true
  /-- W3: `CCSR.RDY` is 1 and is not cleared -/
  w3 : (∀ τ ∈ τs, τ.before.ccsr.rdy = true ∧ τ.move.keepsReady = true) ∧ t.ccsr.rdy = true
  /-- W4: a reset is accepted only while `HCSR.RST` is 1, and `CCSR.RDY` is 1 within `T_RESET` after it -/
  w4 : ∀ (before : List EnvTurn) (τ : EnvTurn) (after : List EnvTurn), τs = before ++ τ :: after →
    τ.move = .acceptReset →
      τ.before.hcsr.rst = true ∧ readyWithin (ticksOf τ.before.cfg tReset) after = true
  /-- W5: every word of `TXRING` has been consumed when the stretch ends -/
  w5 : t.txring = []

/-- The invariant of 10_state.md R19: each register's filled count is the length of its ring, within the depth. With
it: an engine that is `READY` has no reset pending (R15, 42_cb_transport.md R152). -/
structure State.RingsCounted (s : State) : Prop where
  tx : filled s.hcsr = s.txring.length
  txFits : s.txring.length ≤ s.hcsr.depth.toNat
  rx : filled s.ccsr = s.rxring.length
  rxFits : s.rxring.length ≤ s.ccsr.depth.toNat
  cdepth : s.ccsr.depth = s.cfg.cdepth
  ready : s.lstate = .ready → s.hcsr.rst = false

/-- What the rings promise to a wait of the circular kind. -/
def Wait.ringsReady (s : State) : Wait → Prop
  | .initReady => True
  | .sendRoom _ => True
  | .recvHeader _ => s.hcsr.rst = false
  | .recvWord _ _ => s.hcsr.rst = false
  | .resetAccepted => s.lstate = .resetting
  | .resetReady => s.lstate = .resetting
  | _ => False

/-- What the rings promise to a position of the circular kind: room for the words of the packet that are still to be
pushed (42_cb_transport.md R143), a word to pop (R148), no reset accepted during a RECV. -/
def Pos.ringsReady (s : State) : Pos → Prop
  | .tstartNow _ => True
  | .texpiredNow _ => True
  | .queryA _ => True
  | .queryB _ _ => True
  | .gateA _ => s.cfg.kind = .circular
  | .gateB _ _ => s.cfg.kind = .circular
  | .gateGroup _ _ => s.cfg.kind = .circular
  | .gateCommand _ _ _ => s.cfg.kind = .circular
  | .pollStart w => w.ringsReady s
  | .pollCond w _ => w.ringsReady s
  | .pollNow w _ => w.ringsReady s
  | .initWrite => True
  | .sendHeader c => s.txring.length + packetNeed c.cur ≤ s.hcsr.depth.toNat
  | .sendByte c i _ _ =>
    i < wordsOf c.cur.plen ∧ s.txring.length + (wordsOf c.cur.plen - i) ≤ s.hcsr.depth.toNat
  | .sendWord c i _ =>
    i < wordsOf c.cur.plen ∧ s.txring.length + (wordsOf c.cur.plen - i) ≤ s.hcsr.depth.toNat
  | .sendNotify _ => True
  | .sendCheck _ => True
  | .recvPopHeader _ => s.hcsr.rst = false ∧ s.rxring ≠ []
  | .recvPopWord _ _ => s.hcsr.rst = false ∧ s.rxring ≠ []
  | .recvByte _ _ _ _ => s.hcsr.rst = false
  | .recvCheck _ _ => s.hcsr.rst = false
  | .lresetBegin => s.lstate = .resetting
  | .lresetEnd => s.lstate = .resetting
  | _ => False

/-- A state whose rings are counted and whose position relies on nothing the rings do not hold. -/
structure State.RingsKept (s : State) : Prop where
  counted : s.RingsCounted
  pos : ∀ p, s.seq = .busy p → p.ringsReady s

/-! ### The client's program -/

/-- The issue of a SEND or RECV with `LSTATE = READY` and `RESYNC = 1` is a fault of the client's program
(70_reset_and_hazards.md R246, 93_implementation_defined.md U9). The machine runs the command by its rules (log 11); the
statements about SEND and RECV assume that it is not issued so. -/
def clientFault (i : Instr) (s : State) : Bool :=
  match i with
  | .send _ _ => decide (s.lstate = .ready) && s.resync
  | .recv _ => decide (s.lstate = .ready) && s.resync
  | .tstart => false
  | .texpired => false
  | .init => false
  | .lreset => false
  | .classify => false
  | .hidemask => false
  | .allowmask => false

/-- A fault of the client's program, as opposed to one of the machine. -/
inductive ClientProgramFault
  /-- a SEND or RECV issued before the LRESET that `RESYNC = 1` calls for (70_reset_and_hazards.md R246) -/
  | resyncPending
  deriving DecidableEq, Repr

/-- The fault of the client's program that the next step would act on, if any (93_implementation_defined.md U9). -/
def issueFault (s : State) : Option ClientProgramFault :=
  match s.seq with
  | .idle => none
  | .busy _ => none
  | .issued =>
    match decodeWord s.cmd with
    | .ok i => if clientFault i s then some .resyncPending else none
    | .error _ => none

/-! ### The simulated link -/

/-- A circular link ready for a SEND and a RECV, with both rings empty (42_cb_transport.md R154). -/
structure State.LinkIdle (s : State) : Prop where
  cfg : s.cfg.wf = true
  devicePresent : s.cfg.devicePresent = true
  kind : s.cfg.kind = .circular
  lstate : s.lstate = .ready
  resync : s.resync = false
  ready : s.ccsr.rdy = true
  hdepth : s.hcsr.depth = s.cfg.hdepth
  cdepth : s.ccsr.depth = s.cfg.cdepth
  txring : s.txring = []
  rxring : s.rxring = []
  txCount : filled s.hcsr = 0
  rxCount : filled s.ccsr = 0

/-- A schedule of the loopback fixture at any pace: its moves and ticks, nothing else (20_memory.md R74). -/
def loopbackOnly (env : List (List EnvMove)) : Prop :=
  ∀ ms ∈ env, ∀ m ∈ ms, m = .loopback ∨ ∃ n, m = .ticks n

/-- The loopback fixture moves at least one word, if there is one, before every engine step. -/
def loopbackPrompt (env : List (List EnvMove)) : Prop := loopbackOnly env ∧ ∀ ms ∈ env, EnvMove.loopback ∈ ms

/-! ### Schedules of a well-behaved coprocessor -/

/-- The coprocessor's answer to one write of the handshake: nothing while the payload and the doorbell are written
(`n + 1` steps) and the poll starts, then it takes the message, then one event for each `DB_HS_ACKS`. -/
def handshakeRound (n : Nat) (acks : List Word) : List (List EnvMove) :=
  List.replicate (n + 2) [] ++ [.takeOut] :: acks.flatMap fun w => [[], [.postIn w], []]

/-- The coprocessor's schedule for a whole handshake (44_doorbell.md R195): five register writes, two rounds. -/
def handshakeSchedule (n : Nat) (acks1 acks2 : List Word) : List (List EnvMove) :=
  List.replicate 5 [] ++ handshakeRound n acks1 ++ handshakeRound n acks2

/-- The window bytes of the packets of an inbound message that is cut into `chunks`, the completion flag on the last
(44_doorbell.md R190, R199). -/
def inboundPackets (src dst : Byte) : List (List Byte) → List (List Byte)
  | [] => []
  | [bs] => [(List.range 4).map (headerByte (encodeHeader src dst (BitVec.ofNat 9 bs.length) true)) ++ bs]
  | bs :: rest =>
    ((List.range 4).map (headerByte (encodeHeader src dst (BitVec.ofNat 9 bs.length) false)) ++ bs) ::
      inboundPackets src dst rest

/-- The moves by which the coprocessor posts a packet: the bytes into `IN_MSG`, then the doorbell (20_memory.md R72). -/
def postPacket (c : Config) (bytes : List Byte) : List EnvMove :=
  bytes.zipIdx.map (fun x => .writeInMsg x.2 x.1) ++
    [.postIn (Doorbell.toWord
      { len := BitVec.ofNat 10 bytes.length, proto := c.dbProtoPayload, subcmd := 0, busy := true })]

/-- The coprocessor's schedule for a RECV with room for `room` bytes: each packet is posted at the engine's first look
for it, and nothing happens while the engine reads the header, copies what it has room for and clears `DB_IN`. -/
def inboundSchedule (c : Config) : Nat → List (List Byte) → List (List EnvMove)
  | _, [] => []
  | room, p :: ps =>
    [] :: postPacket c p :: List.replicate (5 + 2 * min (p.length - 4) room) [] ++
      inboundSchedule c (room - min (p.length - 4) room) ps

/-! ### Reading a trace -/

/-- The words pushed, in order (10_state.md R32). -/
def pushes (es : List Event) : List Word :=
  es.filterMap fun
    | .push w => some w
    | _ => none

/-- The words popped, in order. -/
def pops (es : List Event) : List Word :=
  es.filterMap fun
    | .pop w => some w
    | _ => none

/-- The values written to `DB_OUT`, in order. -/
def rings (es : List Event) : List Word :=
  es.filterMap fun
    | .writeReg .dbOut w => some w
    | _ => none

/-- The values written to `DB_IN`, in order. -/
def clears (es : List Event) : List Word :=
  es.filterMap fun
    | .writeReg .dbIn w => some w
    | _ => none

/-- The bytes written to `OUT_MSG`, one list for each write, in order. -/
def windows (es : List Event) : List (List Byte) :=
  es.filterMap fun
    | .writeWin bs => some bs
    | _ => none

/-! ### Effects of whole messages -/

/-- `MSGBUF` or a window with the bytes of the list written from index `i` on. -/
def memWriteList : Memory → Nat → List Byte → Memory
  | m, _, [] => m
  | m, i, b :: bs => memWriteList (memWrite m i b) (i + 1) bs

/-- The first `n` bytes of a message. -/
def messageBytes (bytes : Nat → Byte) (n : Nat) : List Byte := (List.range n).map bytes

/-- The events of a circular SEND from the packets' words: each packet is its pushes and one notification
(42_cb_transport.md R143), the register's value with them. -/
def sendEvents : Csr → List (List Word) → List Event
  | _, [] => []
  | h, ws :: rest =>
    let h' := { h with wp := h.wp + BitVec.ofNat 8 ws.length, ig := true }
    ws.map .push ++ .writeReg .hcsr h'.toWord :: sendEvents h' rest

/-- The bytes of a packet in a doorbell window (44_doorbell.md R190). -/
def windowBytes (src dst : Byte) (bytes : Nat → Byte) (p : Packet) : List Byte :=
  (List.range 4).map (headerByte (encodeHeader src dst (BitVec.ofNat 9 p.plen) p.mc)) ++
    (List.range p.plen).map fun k => bytes (p.off + k)

/-- The header word that lies in the first four bytes of a window (44_doorbell.md R199). -/
def windowHeader (m : Memory) : Word :=
  (memRead m 0).setWidth 32 ||| ((memRead m 1).setWidth 32 <<< 8) ||| ((memRead m 2).setWidth 32 <<< 16) |||
    ((memRead m 3).setWidth 32 <<< 24)

/-- The events of one round of the handshake (44_doorbell.md R195, R202). -/
def roundEvents (c : Config) : List Event :=
  [.writeWin c.dbHsPayload, .writeReg .dbOut (Doorbell.ofWord c.dbHsDoorbell).toWord] ++
    List.replicate c.dbHsAcks (.writeReg .dbIn 0)

/-- The events of a whole handshake. -/
def handshakeEvents (s : State) : List Event :=
  [.writeReg .dbIn 0, .writeReg .comm { s.comm with hostReady := true }.toWord, .writeReg .refclk s.cfg.dbRefclk,
    .writeReg .comm { s.comm with hostReady := true, drvLoaded := true }.toWord,
    .writeReg .comm (Comm.toWord { hostReady := true, drvLoaded := true, drvReady := true })] ++
    roundEvents s.cfg ++ roundEvents s.cfg

/-! ### The gate as a SEND in this state meets it -/

/-- The path the gate of a SEND issued in `s` sees: `STS_A` at the first engine step, `STS_B` at the second
(43_trust.md R173, R179). -/
def State.gatePath (s : State) : Path := classify s.cfg.codes s.advance.stsA s.advance.advance.stsB

/-- The category of the message in `MSGBUF` (43_trust.md R178, R179). -/
def State.gateCategory (s : State) : Nat :=
  if 2 ≤ s.arg0.toNat then categoryOf s.cfg (memRead s.msgbuf 0) ((memRead s.msgbuf 1).extractLsb' 0 7)
  else s.cfg.ncat - 1

/-- The gate lets the message pass. -/
def State.gatePasses (s : State) : Bool := (s.cfg.allowTable.get s.gatePath).getLsbD s.gateCategory

/-- The state after the gate's steps: two register reads, and two byte reads for a message of 2 bytes or more. -/
def State.afterGate (s : State) : State :=
  if 2 ≤ s.arg0.toNat then s.advance.advance.advance.advance else s.advance.advance

/-! ### Result codes by command -/

/-- The codes a command can end with (60_exceptions.md R215). -/
def endCodes (k : TransportKind) : Instr → List ResultCode
  | .tstart => [.success, .unsupported]
  | .texpired => [.success, .unsupported]
  | .init =>
    match k with
    | .circular => [.success, .deviceNotPresent, .notReady, .timeout]
    | .doorbell => [.success, .deviceNotPresent, .notReady, .timeout, .protocolError]
  | .send _ _ =>
    match k with
    | .circular => [.success, .deviceNotPresent, .unsupported, .notReady, .timeout, .overflow]
    | .doorbell => [.success, .deviceNotPresent, .unsupported, .notReady, .timeout, .protocolError]
  | .recv blk =>
    (if blk then [] else [.noData]) ++
      match k with
      | .circular => [.success, .deviceNotPresent, .notReady, .timeout, .bufferTooSmall, .overflow]
      | .doorbell => [.success, .deviceNotPresent, .notReady, .timeout, .bufferTooSmall, .protocolError]
  | .lreset =>
    match k with
    | .circular => [.success, .deviceNotPresent, .notReady, .timeout]
    | .doorbell => [.success, .deviceNotPresent, .notReady, .timeout, .protocolError]
  | .classify => [.success, .deviceNotPresent]
  | .hidemask => [.success, .deviceNotPresent]
  | .allowmask => [.success, .deviceNotPresent]

end Sys2Proof.Machine
end

