-- ==== Sys2Proof/Certificates/Slice0/Obligations.lean ====
section
/-! DEFINITION. The statements for the provers, one definition each; OBLIGATIONS.json lists them. Statements about a
whole command hold for EVERY schedule of the environment, unless their text says that the schedule is empty (the
controller is quiet) or names one. The properties of SEND and RECV are stated under the premise of
70_reset_and_hazards.md R246: `RESYNC = 0` when the command is issued with `LSTATE = READY` (`clientFault` is false). -/

open Sys2Proof Sys2Proof.Machine

/-! ### Command words, the port, reset -/

/-- Decoding and encoding agree, in both directions (30_encoding.md R93, R95). -/
def Obligations.DecodeEncodeAgree : Prop :=
  (∀ i : Instr, i.wf = true → decodeWord (encode i) = .ok i) ∧
    ∀ (w : Word) (i : Instr), decodeWord w = .ok i → encode i = w

/-- Words written out from the opcode map decode to the commands they stand for (30_encoding.md R93, R95). -/
def Obligations.WordsDecode : Prop :=
  decodeWord 0x00000001 = .ok .tstart ∧ decodeWord 0x00000010 = .ok .init ∧
    decodeWord 0x00000711 = .ok (.send 0x07 0x00) ∧ decodeWord 0x00FF0211 = .ok (.send 0x02 0xFF) ∧
    decodeWord 0x01000012 = .ok (.recv true) ∧ decodeWord 0x00000012 = .ok (.recv false) ∧
    decodeWord 0x00000022 = .ok .allowmask ∧ decodeWord 0x01000711 = .error .reservedBits ∧
    decodeWord 0x00000003 = .error .reservedOpcode

/-- A step at an issued legal word is the meaning of the command it carries (10_state.md R42). -/
def Obligations.StepRunsCommand : Prop :=
  ∀ (s : State) (i : Instr),
    s.cfg.wf = true → s.seq = .issued → decodeWord s.cmd = .ok i → i.wf = true → step s = exec i s

/-- A command word that matches no row of the opcode map ends `UNSUPPORTED` at once and changes nothing else
(30_encoding.md R96); the rows are `(mask, match)` of R95. -/
def Obligations.IllegalWordEnds : Prop :=
  ∀ s : State, s.cfg.wf = true → s.seq = .issued →
    (∀ r ∈ [((0xFFFFFFFF : Word), (0x00000001 : Word)), (0xFFFFFFFF, 0x00000002), (0xFFFFFFFF, 0x00000010),
        (0xFF0000FF, 0x00000011), (0xFEFFFFFF, 0x00000012), (0xFFFFFFFF, 0x00000013), (0xFFFFFFFF, 0x00000020),
        (0xFFFFFFFF, 0x00000021), (0xFFFFFFFF, 0x00000022)], s.cmd &&& r.1 ≠ r.2) →
      step s = .next { s with result := 7, seq := .idle }

/-- A configuration that breaks the constraints is refused (00_scope.md R6). -/
def Obligations.BadConfigurationRefused : Prop :=
  ∀ s : State,
    (¬(2 ≤ s.cfg.hdepth.toNat ∧ s.cfg.hdepth.toNat ≤ 255) ∨ ¬(2 ≤ s.cfg.cdepth.toNat ∧ s.cfg.cdepth.toNat ≤ 255) ∨
        ¬15000000 * s.cfg.tickHz / 1000000 < 2 ^ s.cfg.cw) →
      step s = .refused .badConfiguration

/-- The table of reset values for every instance and every draw of what it leaves unspecified (10_state.md R45). -/
def Obligations.ResetTable : Prop :=
  ∀ (c : Config) (d : ResetDraws),
    let s := State.created c d
    s.lstate = .uninit ∧ s.resync = false ∧ s.hcsr.wp = 0 ∧ s.hcsr.rp = 0 ∧ s.hcsr.depth = c.hdepth ∧
      s.hcsr.rst = false ∧ s.hcsr.rdy = false ∧ s.hcsr.ig = false ∧ s.hcsr.is = d.hcsrIs ∧
      s.ccsr = { wp := 0, rp := 0, depth := c.cdepth, rst := d.ccsrRst, rdy := d.ccsrRdy, ig := d.ccsrIg,
                 is := d.ccsrIs } ∧
      s.txring = [] ∧ s.rxring = [] ∧
      s.counter.toNat = d.counter.toNat % 2 ^ c.cw ∧ s.stsA = d.stsA ∧ s.stsB = d.stsB ∧
      s.dbOut = d.dbOut ∧ s.dbIn = d.dbIn ∧ s.comm.toWord = 0 ∧ s.refclk = 0 ∧ s.outMsg = d.outMsg ∧
      s.inMsg = d.inMsg ∧ s.trace = [] ∧ s.seq = .idle

/-- The machine after reset is a safe state. The instance and the draws of `State.reset` are the model's own choice (log 3,
log 5, log 6, log 7). -/
def Obligations.ResetSafe : Prop := State.reset.Safe

/-- The numbers of the result codes, of the boot paths and of the link states (60_exceptions.md R215, 30_encoding.md
R91, 10_state.md R23). -/
def Obligations.CodeNumbers : Prop :=
  [ResultCode.success, .deviceNotPresent, .notReady, .timeout, .bufferTooSmall, .noData, .protocolError, .unsupported,
      .overflow].map ResultCode.code = [0, 1, 2, 3, 4, 5, 6, 7, 8] ∧
    [Path.normal, .error, .recovery, .errorWithoutDidMsg, .secoverMeiMsg, .swTempDisable, .secoverJmpr, .debugMode,
      .enforcementWithoutDidMsg, .sps, .spsRcv].map pathCode = [0, 1, 2, 3, 4, 5, 6, 7, 8, 9, 10] ∧
    [LState.uninit, .ready, .resetting].map LState.code = [0, 1, 2]

/-! ### The machine as a whole -/

/-- From every safe state a step answers a next state, which is safe and has the same configuration: no step faults,
every command can be run on. -/
def Obligations.SafeStepsGoOn : Prop :=
  ∀ s : State, s.Safe → ∃ t, step s = .next t ∧ t.Safe ∧ t.cfg = s.cfg

/-- The filled counts are the lengths of the rings, within the depths: it holds at reset, for every instance and every
draw, and is kept by every atomic step of the engine, by the start of every command, by every move of the client and by
every orderly move of the environment, and so along every execution of a circular link whose controller is orderly
(10_state.md R19, 20_memory.md R73 W1). That the moves fall between atomic steps is log 1, log 2, log 13 and log 14. -/
def Obligations.RingsStayCounted : Prop :=
  (∀ (c : Config) (d : ResetDraws), (State.created c d).RingsKept) ∧
    (∀ (s t : State) (p : Pos), s.RingsKept → s.seq = .busy p → engineAct s p = .next t → t.RingsKept) ∧
    (∀ (s : State) (i : Instr), s.RingsCounted → s.cfg.kind = .circular → (beginCommand i s).RingsKept) ∧
    (∀ (s : State) (m : ClientMove), s.RingsKept → s.seq = .idle → (s.clientMove m).RingsKept) ∧
    (∀ (s : State) (m : EnvMove), s.RingsKept → m.orderly s = true → (s.envMove m).RingsKept) ∧
    ∀ (s t : State) (τs : List EnvTurn), Execution s τs t → s.cfg.kind = .circular → s.RingsKept →
      (∀ τ ∈ τs, τ.move.orderly τ.before = true) → t.RingsKept

/-- Who may change what in the two control/status registers (30_encoding.md R85), for the engine's atomic steps and
for the environment's moves and the client's. -/
def Obligations.CsrAccessRights : Prop :=
  (∀ (s t : State) (p : Pos), engineAct s p = .next t →
      t.hcsr.rp = s.hcsr.rp ∧ t.hcsr.depth = s.hcsr.depth ∧ t.hcsr.is = s.hcsr.is ∧
        (s.hcsr.rdy = true → t.hcsr.rdy = true) ∧ (s.hcsr.ig = true → t.hcsr.ig = true) ∧
        (t.hcsr.wp = s.hcsr.wp ∧ t.txring = s.txring ∨
          ∃ w, t.hcsr.wp = s.hcsr.wp + 1 ∧ t.txring = s.txring ++ [w] ∧ t.trace = s.trace ++ [.push w]) ∧
        t.ccsr.wp = s.ccsr.wp ∧ t.ccsr.depth = s.ccsr.depth ∧ t.ccsr.rst = s.ccsr.rst ∧ t.ccsr.rdy = s.ccsr.rdy ∧
        t.ccsr.ig = s.ccsr.ig ∧ t.ccsr.is = s.ccsr.is ∧
        (t.ccsr.rp = s.ccsr.rp ∧ t.rxring = s.rxring ∨
          ∃ w, t.ccsr.rp = s.ccsr.rp + 1 ∧ t.rxring = s.rxring.tail ∧ t.trace = s.trace ++ [.pop w])) ∧
    (∀ (s : State) (m : ClientMove), (s.clientMove m).hcsr = s.hcsr ∧ (s.clientMove m).ccsr = s.ccsr) ∧
    ∀ (s : State) (m : EnvMove),
      let t := s.envMove m
      t.hcsr.depth = s.hcsr.depth ∧ t.ccsr.depth = s.ccsr.depth ∧ t.hcsr.rst = s.hcsr.rst ∧
        (t.hcsr.rdy = s.hcsr.rdy ∨ m = .acceptReset ∧ s.hcsr.rst = true ∧ t.hcsr.rdy = false) ∧
        (t.hcsr.ig = s.hcsr.ig ∨ t.hcsr.ig = false) ∧
        (t.hcsr.wp = s.hcsr.wp ∨ m = .acceptReset ∧ s.hcsr.rst = true ∧ t.hcsr.wp = 0) ∧
        (t.ccsr.rp = s.ccsr.rp ∨ m = .acceptReset ∧ s.hcsr.rst = true ∧ t.ccsr.rp = 0 ∨ m.orderly s = false)

/-- A move of the environment changes nothing that is the engine's or the client's (10_state.md, 20_memory.md R61,
R64). The last clause, that the moves of 20_memory.md R72 on the doorbell registers and `IN_MSG` are not made on a
circular link, is the model's reading (log 19). -/
def Obligations.EnvironmentKeepsItsHandsOff : Prop :=
  ∀ s : State,
    let t := s.advance
    t.cfg = s.cfg ∧ t.lstate = s.lstate ∧ t.resync = s.resync ∧ t.comm = s.comm ∧ t.refclk = s.refclk ∧
      t.outMsg = s.outMsg ∧ t.trace = s.trace ∧ t.cmd = s.cmd ∧ t.arg0 = s.arg0 ∧ t.arg1 = s.arg1 ∧
      t.result = s.result ∧ t.res0 = s.res0 ∧ t.res1 = s.res1 ∧ t.res2 = s.res2 ∧ t.msgbuf = s.msgbuf ∧
      t.seq = s.seq ∧ t.client = s.client ∧ t.draws = s.draws ∧ t.env = s.env.tail ∧
      (s.cfg.kind = .circular → t.dbOut = s.dbOut ∧ t.dbIn = s.dbIn ∧ t.inMsg = s.inMsg)

/-- The moves of 20_memory.md R66, R67, R69 and R71. -/
def Obligations.EnvironmentMoves : Prop :=
  (∀ (s : State) (w : Word) (rest : List Word), s.txring = w :: rest →
      s.envMove .consume = { s with txring := rest, hcsr := { s.hcsr with rp := s.hcsr.rp + 1 } }) ∧
    (∀ (s : State) (w : Word),
      s.envMove (.produce w) = { s with rxring := s.rxring ++ [w], ccsr := { s.ccsr with wp := s.ccsr.wp + 1 } }) ∧
    (∀ s : State, s.hcsr.rst = true →
      s.envMove .acceptReset =
        { s with txring := [], rxring := [], hcsr := { s.hcsr with rdy := false, wp := 0, rp := 0 },
                 ccsr := { s.ccsr with wp := 0, rp := 0 } }) ∧
    ∀ s : State, s.envMove (.ticks 1) = { s with counter := BitVec.ofNat 32 ((s.counter.toNat + 1) % 2 ^ s.cfg.cw) }

/-- What every command leaves alone, whatever the schedule: its operands, the configuration, the depths, and, command
by command, the client's buffer, the result registers and the engine's own state that its rule does not write. The
clauses on `DB_OUT` and `DB_IN` of a circular link rest on log 19, the model's reading of 20_memory.md R72: no
coprocessor moves them there. Which bytes of `MSGBUF` a RECV writes is said by RecvStaysInCapacity and
RecvDrainsOneMessage. -/
def Obligations.CommandFrame : Prop :=
  ∀ (i : Instr) (s t : State), clientFault i s = false → exec i s = .next t →
    (t.cfg = s.cfg ∧ t.cmd = s.cmd ∧ t.arg0 = s.arg0 ∧ t.arg1 = s.arg1 ∧ t.client = s.client ∧
      t.hcsr.depth = s.hcsr.depth ∧ t.ccsr.depth = s.ccsr.depth) ∧
    match i with
    | .tstart | .texpired | .classify | .hidemask | .allowmask =>
      t.lstate = s.lstate ∧ t.resync = s.resync ∧ t.trace = s.trace ∧ t.msgbuf = s.msgbuf ∧ t.outMsg = s.outMsg ∧
        t.comm = s.comm ∧ t.refclk = s.refclk ∧ t.res2 = s.res2 ∧ t.draws = s.draws ∧ t.hcsr.rst = s.hcsr.rst
    | .init | .lreset =>
      t.msgbuf = s.msgbuf ∧ t.res0 = s.res0 ∧ t.res1 = s.res1 ∧ t.res2 = s.res2 ∧ t.draws = s.draws ∧
        pushes t.trace = pushes s.trace ∧ pops t.trace = pops s.trace ∧
        (i = .init → t.resync = s.resync) ∧
        (s.cfg.kind = .circular → t.outMsg = s.outMsg ∧ t.comm = s.comm ∧ t.refclk = s.refclk ∧ t.dbOut = s.dbOut ∧
          t.dbIn = s.dbIn)
    | .send _ _ =>
      t.msgbuf = s.msgbuf ∧ t.res0 = s.res0 ∧ t.res1 = s.res1 ∧ t.res2 = s.res2 ∧ t.draws = s.draws ∧
        t.comm = s.comm ∧ t.refclk = s.refclk ∧ t.hcsr.rst = s.hcsr.rst ∧ pops t.trace = pops s.trace ∧
        (s.cfg.kind = .circular → t.outMsg = s.outMsg ∧ t.dbOut = s.dbOut ∧ t.dbIn = s.dbIn)
    | .recv _ =>
      t.outMsg = s.outMsg ∧ t.comm = s.comm ∧ t.refclk = s.refclk ∧ t.hcsr.rst = s.hcsr.rst ∧
        pushes t.trace = pushes s.trace ∧ rings t.trace = rings s.trace ∧ windows t.trace = windows s.trace ∧
        (s.cfg.kind = .circular → t.dbOut = s.dbOut ∧ t.dbIn = s.dbIn)

/-- The transitions of `LSTATE`, command by command, whatever the schedule: there are no others (42_cb_transport.md
R153, 44_doorbell.md R203). -/
def Obligations.LinkTransitions : Prop :=
  ∀ (i : Instr) (s t : State), clientFault i s = false → exec i s = .next t →
    match i with
    | .init =>
      t.lstate = s.lstate ∨
        s.lstate = .uninit ∧ t.lstate = .ready ∧ t.seq = .idle ∧ t.result = ResultCode.success.code
    | .lreset =>
      if s.cfg.devicePresent = true ∧ s.lstate ≠ .uninit then
        t.lstate = .resetting ∧ t.resync = s.resync ∨
          t.lstate = .ready ∧ t.resync = false ∧ t.seq = .idle ∧ t.result = ResultCode.success.code
      else t.lstate = s.lstate ∧ t.resync = s.resync
    | .send _ _ | .recv _ =>
      t.lstate = s.lstate ∨
        s.cfg.kind = .circular ∧ s.lstate = .ready ∧ t.lstate = .resetting ∧ t.resync = true ∧ t.seq = .idle ∧
          t.result = ResultCode.notReady.code
    | _ => t.lstate = s.lstate ∧ t.resync = s.resync

/-- Every command that ends writes one of the codes its rule names (60_exceptions.md R215). -/
def Obligations.EndCodes : Prop :=
  ∀ (i : Instr) (s t : State), clientFault i s = false → exec i s = .next t → t.seq = .idle →
    ∃ c ∈ endCodes s.cfg.kind i, t.result = c.code

/-- What a circular SEND or RECV that has ended leaves of the link, by its code (60_exceptions.md R223, R234). -/
def Obligations.CircularFailureLeaves : Prop :=
  ∀ (i : Instr) (s t : State), ((∃ a b, i = .send a b) ∨ ∃ blk, i = .recv blk) → s.cfg.kind = .circular →
    clientFault i s = false → exec i s = .next t → t.seq = .idle →
    let moved := pushes t.trace ≠ pushes s.trace ∨ pops t.trace ≠ pops s.trace
    ((t.result = ResultCode.timeout.code ∨ t.result = ResultCode.overflow.code) →
      t.lstate = s.lstate ∧ (t.resync = true ↔ s.resync = true ∨ moved) ∧ ((∃ blk, i = .recv blk) → t.res0 = 0)) ∧
    (t.result = ResultCode.notReady.code → s.lstate = .ready →
      t.lstate = .resetting ∧ t.resync = true ∧ moved ∧ ((∃ blk, i = .recv blk) → t.res0 = 0)) ∧
    (t.result = ResultCode.notReady.code → s.lstate ≠ .ready →
      t.lstate = s.lstate ∧ t.resync = s.resync ∧ t.trace = s.trace ∧ t.res0 = s.res0) ∧
    ((t.result = ResultCode.success.code ∨ t.result = ResultCode.bufferTooSmall.code) →
      t.lstate = s.lstate ∧ t.resync = s.resync) ∧
    ((t.result = ResultCode.deviceNotPresent.code ∨ t.result = ResultCode.noData.code ∨
        t.result = ResultCode.unsupported.code) →
      t.lstate = s.lstate ∧ t.resync = s.resync ∧ t.trace = s.trace ∧ t.res0 = s.res0 ∧ t.res1 = s.res1 ∧
        t.res2 = s.res2)

/-- What a doorbell SEND or RECV that has ended leaves of the link, by its code (60_exceptions.md R216, R217, R220, R223,
R230, R231, 44_doorbell.md R197, R199, R200, R203). A doorbell command has moved something when it has written `DB_OUT` or cleared `DB_IN`. -/
def Obligations.DoorbellFailureLeaves : Prop :=
  ∀ (i : Instr) (s t : State), ((∃ a b, i = .send a b) ∨ ∃ blk, i = .recv blk) → s.cfg.kind = .doorbell →
    clientFault i s = false → exec i s = .next t → t.seq = .idle →
    let moved := rings t.trace ≠ rings s.trace ∨ clears t.trace ≠ clears s.trace
    t.lstate = s.lstate ∧
    (t.result = ResultCode.timeout.code →
      (t.resync = true ↔ s.resync = true ∨ moved) ∧ ((∃ blk, i = .recv blk) → t.res0 = 0)) ∧
    (t.result = ResultCode.protocolError.code →
      t.resync = true ∧ ((∃ a b, i = .send a b) → t.dbIn.busy = true ∧ moved) ∧
        ((∃ blk, i = .recv blk) → t.res0 = 0)) ∧
    ((t.result = ResultCode.success.code ∨ t.result = ResultCode.bufferTooSmall.code) →
      t.resync = s.resync) ∧
    ((t.result = ResultCode.deviceNotPresent.code ∨ t.result = ResultCode.notReady.code ∨
        t.result = ResultCode.noData.code ∨ t.result = ResultCode.unsupported.code) →
      t.resync = s.resync ∧ t.trace = s.trace ∧ t.res0 = s.res0 ∧ t.res1 = s.res1 ∧ t.res2 = s.res2)

/-- `fail` and `return` (60_exceptions.md R221, R223). -/
def Obligations.FailBookkeeping : Prop :=
  ∀ (s : State) (c : ResultCode) (moved : Bool),
    s.ret c = { s with result := c.code, seq := .idle } ∧
      s.fail c moved =
        { s with
          lstate := if c = .notReady then .resetting else s.lstate
          resync := if moved = true ∨ c = .notReady ∨ c = .protocolError then true else s.resync
          result := c.code
          seq := .idle }

/-- With no device every transport and trust command ends `DEVICE_NOT_PRESENT` before anything else and changes
nothing else; the timer commands never do (60_exceptions.md R216). -/
def Obligations.DeviceAbsent : Prop :=
  (∀ (i : Instr) (s : State), i ≠ .tstart → i ≠ .texpired → s.cfg.devicePresent = false →
      exec i s = .next { s with result := 1, seq := .idle }) ∧
    ∀ (i : Instr) (s t : State), i = .tstart ∨ i = .texpired → exec i s = .next t → t.result ≠ 1

/-- A command in a link state it does not need ends at once and changes nothing but `RESULT` (42_cb_transport.md
R141, R148, R152; 60_exceptions.md R217 a). -/
def Obligations.WrongLinkState : Prop :=
  ∀ s : State, s.cfg.devicePresent = true →
    (s.lstate = .ready → exec .init s = .next { s with result := ResultCode.success.code, seq := .idle }) ∧
    (s.lstate = .resetting → exec .init s = .next { s with result := ResultCode.notReady.code, seq := .idle }) ∧
    (∀ blk, s.lstate ≠ .ready →
      exec (.recv blk) s = .next { s with result := ResultCode.notReady.code, seq := .idle }) ∧
    (s.lstate = .uninit → exec .lreset s = .next { s with result := ResultCode.notReady.code, seq := .idle })

/-! ### The timer -/

/-- TSTART (40_timer.md R112). The counter is read modulo `2^CW`, which changes nothing in a state where `COUNTER` is in
its range (R110, 10_state.md R22). -/
def Obligations.TstartResult : Prop :=
  decodeWord 0x00000001 = .ok .tstart ∧ ∀ s : State,
    exec .tstart s =
      .next
        (let now := s.advance.counter.toNat % 2 ^ s.cfg.cw
        if s.arg0.toNat * s.cfg.tickHz / 1000000 < 2 ^ s.cfg.cw then
          { s.advance with
            res0 := BitVec.ofNat 32 now
            res1 := BitVec.ofNat 32
              ((now + s.arg0.toNat * s.cfg.tickHz / 1000000) % 2 ^ s.cfg.cw)
            result := ResultCode.success.code
            seq := .idle }
        else { s with result := ResultCode.unsupported.code, seq := .idle })

/-- TEXPIRED (40_timer.md R113, R114), the counter read as in TSTART. -/
def Obligations.TexpiredResult : Prop :=
  decodeWord 0x00000002 = .ok .texpired ∧ ∀ s : State,
    exec .texpired s =
      .next
        (let now := s.advance.counter.toNat % 2 ^ s.cfg.cw
        if s.arg0.toNat < 2 ^ s.cfg.cw ∧ s.arg1.toNat < 2 ^ s.cfg.cw then
          { s.advance with
            res0 :=
              if s.arg0 = s.arg1 ∨
                  (s.arg0.toNat < s.arg1.toNat ∧
                    (s.arg1.toNat ≤ now ∨ now < s.arg0.toNat)) ∨
                  (s.arg1.toNat < s.arg0.toNat ∧ s.arg1.toNat < now ∧ now < s.arg0.toNat) then 1
              else 0
            result := ResultCode.success.code
            seq := .idle }
        else { s with result := ResultCode.unsupported.code, seq := .idle })

/-- The closed form of the expiry test (40_timer.md R115). -/
def Obligations.ExpiredClosedForm : Prop :=
  ∀ cw start stop now : Nat, start < 2 ^ cw → stop < 2 ^ cw → now < 2 ^ cw →
    let ticks := (stop + 2 ^ cw - start) % 2 ^ cw
    let e := (now + 2 ^ cw - start) % 2 ^ cw
    (expired start stop now = true ↔ start = stop ∨ start < stop ∧ ticks ≤ e ∨ stop < start ∧ ticks < e)

/-- A poller that samples within the bound of 70_reset_and_hazards.md R252 finds a timer of the engine expired at the
first sample late enough, never earlier and never a period later. `e1` and `e2` are the ticks elapsed at two samples
that follow one another. -/
def Obligations.PollerCannotStepOver : Prop :=
  ∀ (c : Config) (start us e1 e2 : Nat), c.wf = true → us ≤ 15000000 ∨ us = c.tDb → 0 < ticksOf c us →
    start < 2 ^ c.cw → e1 ≤ e2 → e2 ≤ e1 + 2 * c.maxTicksPerStep → e1 < 2 ^ c.cw →
    expired start (deadline c start us) ((start + e1) % 2 ^ c.cw) = false →
    (expired start (deadline c start us) ((start + e2) % 2 ^ c.cw) = true →
      ticksOf c us ≤ e2 ∧ e2 ≤ ticksOf c us + 2 * c.maxTicksPerStep) ∧
    (ticksOf c us < e2 → expired start (deadline c start us) ((start + e2) % 2 ^ c.cw) = true)

/-! ### Trust -/

/-- CLASSIFY (43_trust.md R173). -/
def Obligations.ClassifyResult : Prop :=
  decodeWord 0x00000020 = .ok .classify ∧ ∀ s : State,
    exec .classify s =
      .next
        (if s.cfg.devicePresent = true then
          { s.advance.advance with
            res0 := pathCode (classify s.cfg.codes s.advance.stsA s.advance.advance.stsB)
            result := ResultCode.success.code
            seq := .idle }
        else { s with result := ResultCode.deviceNotPresent.code, seq := .idle })

/-- HIDEMASK (43_trust.md R174). -/
def Obligations.HidemaskResult : Prop :=
  decodeWord 0x00000021 = .ok .hidemask ∧ ∀ s : State,
    exec .hidemask s =
      .next
        (if s.cfg.devicePresent = true then
          { s.advance.advance with
            res0 := s.cfg.hideTable.get (classify s.cfg.codes s.advance.stsA s.advance.advance.stsB)
            res1 := pathCode (classify s.cfg.codes s.advance.stsA s.advance.advance.stsB)
            result := ResultCode.success.code
            seq := .idle }
        else { s with result := ResultCode.deviceNotPresent.code, seq := .idle })

/-- ALLOWMASK (43_trust.md R180). -/
def Obligations.AllowmaskResult : Prop :=
  decodeWord 0x00000022 = .ok .allowmask ∧ ∀ s : State,
    exec .allowmask s =
      .next
        (if s.cfg.devicePresent = true then
          { s.advance.advance with
            res0 := s.cfg.allowTable.get (classify s.cfg.codes s.advance.stsA s.advance.advance.stsB)
            res1 := pathCode (classify s.cfg.codes s.advance.stsA s.advance.advance.stsB)
            result := ResultCode.success.code
            seq := .idle }
        else { s with result := ResultCode.deviceNotPresent.code, seq := .idle })

/-- What the order of the classifier's steps decides (43_trust.md R172), on whole status registers: `ERR` is bits
11:8, `CUR` bits 3:0, `OPMODE` bits 19:16, `FPTBAD` bit 4 of `STS_A`, `ENF` bit 0 of `STS_B` (30_encoding.md R88, R89). -/
def Obligations.ClassifyOrder : Prop :=
  ∀ (c : Config) (a b : Word), c.wf = true →
    let k := c.codes
    let err := a.extractLsb' 8 4
    let cur := a.extractLsb' 0 4
    let op := a.extractLsb' 16 4
    let enf := b.getLsbD 0
    let p := classify k a b
    (op = k.opSps → err ≠ k.errNone → p ≠ .sps ∧ p ≠ .spsRcv) ∧
      (op = k.opSps → err = k.errNone → p = if cur = k.curRecovery then .spsRcv else .sps) ∧
      (enf = true → ¬(op = k.opSps ∧ err = k.errNone) → p = .enforcementWithoutDidMsg) ∧
      (enf = false → op = k.opDebug → p = .debugMode) ∧ (enf = false → op = k.opSecoverJmpr → p = .secoverJmpr) ∧
      (enf = false → op = k.opSwTempDisable → p = .swTempDisable) ∧
      (enf = false → op = k.opSecoverMeiMsg → p = .secoverMeiMsg) ∧
      (enf = false → op ∉ [k.opDebug, k.opSecoverJmpr, k.opSwTempDisable, k.opSecoverMeiMsg] →
        ¬(op = k.opSps ∧ err = k.errNone) →
        p = if err = k.errImageFailure then .errorWithoutDidMsg
            else if cur = k.curRecovery then .recovery
            else if a.getLsbD 4 = true ∨ err ≠ k.errNone then .error
            else .normal)

/-- The masks that HIDEMASK reports obey the constraints of 43_trust.md R175 on every path, whatever the registers and
the schedule. -/
def Obligations.HidePolicyHolds : Prop :=
  ∀ s t : State, s.cfg.wf = true → s.cfg.devicePresent = true → exec .hidemask s = .next t →
    t.res0.toNat < 2 ^ s.cfg.nhide ∧
      (t.res1 = pathCode .normal → t.res0 = 0) ∧
      (t.res1 = pathCode .secoverJmpr ∨ t.res1 = pathCode .debugMode ∨ t.res1 = pathCode .enforcementWithoutDidMsg →
        t.res0.toNat = 2 ^ s.cfg.nhide - 1) ∧
      (t.res1 = pathCode .error ∨ t.res1 = pathCode .recovery → t.res0 ≠ 0 ∧ t.res0.toNat ≠ 2 ^ s.cfg.nhide - 1)

/-- The masks that ALLOWMASK reports obey the constraints of 43_trust.md R177 on every path: end of boot is always
allowed. -/
def Obligations.AllowPolicyHolds : Prop :=
  ∀ s t : State, s.cfg.wf = true → s.cfg.devicePresent = true → exec .allowmask s = .next t →
    t.res0.getLsbD 0 = true ∧ t.res0.toNat < 2 ^ s.cfg.ncat ∧
      (t.res1 = pathCode .normal ∨ t.res1 = pathCode .sps → t.res0.toNat = 2 ^ s.cfg.ncat - 1) ∧
      (t.res1 = pathCode .error → t.res0 = 7) ∧
      (t.res1 = pathCode .recovery → t.res0 &&& 7 = 7 ∧ t.res0 ≠ 7)

/-- The gate of SEND, for both kinds and every schedule: a message that it denies ends `UNSUPPORTED`, a message that it
lets pass on a link that is not ready ends `NOT_READY`; either way nothing but `RESULT` is written and `TRACE` gains
no event (43_trust.md R179, 42_cb_transport.md R145, 44_doorbell.md R197, 60_exceptions.md R222). -/
def Obligations.SendGate : Prop :=
  ∀ (a b : Byte) (s : State), s.cfg.devicePresent = true → clientFault (.send a b) s = false →
    (s.gatePasses = false →
      exec (.send a b) s = .next { s.afterGate with result := ResultCode.unsupported.code, seq := .idle }) ∧
    (s.gatePasses = true → s.lstate ≠ .ready →
      exec (.send a b) s = .next { s.afterGate with result := ResultCode.notReady.code, seq := .idle }) ∧
    s.afterGate.trace = s.trace ∧ s.afterGate.lstate = s.lstate ∧ s.afterGate.resync = s.resync

/-- The end-of-boot guarantee: whatever the status registers and the schedule, a SEND of category `CAT_END_OF_BOOT`
passes the gate (43_trust.md R181). On a circular link it never ends `UNSUPPORTED`. -/
def Obligations.EndOfBootPasses : Prop :=
  ∀ (a b : Byte) (s : State), s.cfg.wf = true → s.cfg.devicePresent = true → s.gateCategory = 0 →
    s.gatePasses = true ∧
      ∀ t, s.cfg.kind = .circular → clientFault (.send a b) s = false → exec (.send a b) s = .next t → t.seq = .idle →
        t.result ≠ ResultCode.unsupported.code

/-! ### The codec -/

/-- The laws of the header (41_codec.md R126). -/
def Obligations.HeaderLaws : Prop :=
  (∀ w : Word,
      decodeHeader w =
        { src := w.extractLsb' 0 8, dst := w.extractLsb' 8 8, len := w.extractLsb' 16 9, rsv := w.extractLsb' 25 6,
          mc := w.getLsbD 31 }) ∧
    (∀ (src dst : Byte) (len : BitVec 9) (mc : Bool),
      decodeHeader (encodeHeader src dst len mc) = { src := src, dst := dst, len := len, rsv := 0, mc := mc }) ∧
    ∀ w : Word,
      encodeHeader (decodeHeader w).src (decodeHeader w).dst (decodeHeader w).len (decodeHeader w).mc =
        w &&& 0x81FFFFFF

/-- The layouts of the control/status and doorbell registers (30_encoding.md R84, R86): every field at its bits, the
bits outside the fields zero, and the fields read back. -/
def Obligations.RegisterLayouts : Prop :=
  (∀ c : Csr,
      c.toWord.extractLsb' 0 8 = c.wp ∧ c.toWord.extractLsb' 8 8 = c.rp ∧ c.toWord.extractLsb' 16 8 = c.depth ∧
        c.toWord.getLsbD 24 = c.rst ∧ c.toWord.getLsbD 25 = c.rdy ∧ c.toWord.getLsbD 26 = c.ig ∧
        c.toWord.getLsbD 27 = c.is ∧ c.toWord.extractLsb' 28 4 = 0 ∧ Csr.ofWord c.toWord = c) ∧
    ∀ d : Doorbell,
      d.toWord.extractLsb' 0 10 = d.len ∧ d.toWord.extractLsb' 10 4 = d.proto ∧
        d.toWord.extractLsb' 14 4 = d.subcmd ∧ d.toWord.getLsbD 18 = d.busy ∧ d.toWord.extractLsb' 19 13 = 0 ∧
        Doorbell.ofWord d.toWord = d

/-- Packing and unpacking of payload bytes, with the padding (41_codec.md R128, R129). -/
def Obligations.PayloadPacking : Prop :=
  ∀ (bytes : Nat → Byte) (off plen k : Nat),
    unpackByte (packWord bytes off plen (k / 4)) (k % 4) = if k < plen then bytes (off + k) else 0

/-- Filled count, overflow and space (41_codec.md R130, R131, R132). -/
def Obligations.RingArithmetic : Prop :=
  ∀ c : Csr,
    (filled c : Int) = ((c.wp.toNat : Int) - c.rp.toNat) % 256 ∧
      (overflows c = true ↔ c.depth.toNat < filled c) ∧
      (overflows c = false → space c ≤ c.depth.toNat ∧ space c + filled c = c.depth.toNat)

/-- The fragmentation plan (41_codec.md R134): as many packets as the message needs, cut one after another from the
first byte to the last, all but the last full, the completion flag on exactly the last. -/
def Obligations.PlanCuts : Prop :=
  ∀ len maxpay : Nat, 0 < maxpay →
    (plan len maxpay).length = (if len = 0 then 1 else (len + maxpay - 1) / maxpay) ∧
      ((plan len maxpay).map Packet.plen).sum = len ∧
      ∀ (i : Nat) (h : i < (plan len maxpay).length),
        (plan len maxpay)[i].off = i * maxpay ∧ (plan len maxpay)[i].plen = min maxpay (len - i * maxpay) ∧
          ((plan len maxpay)[i].mc = true ↔ i + 1 = (plan len maxpay).length) ∧
          (0 < len → 0 < (plan len maxpay)[i].plen)

/-- The round trip of the codec (41_codec.md R136): a message that is cut, encoded and put back together is the same,
whatever words follow it. -/
def Obligations.MessageRoundTrip : Prop :=
  ∀ (src dst : Byte) (bytes : Nat → Byte) (len maxpay : Nat) (rest : List Word), 1 ≤ maxpay → maxpay ≤ 511 →
    ∃ last : Header,
      decodeMessage (encodeMessage src dst bytes len maxpay ++ rest) = some (messageBytes bytes len, last, rest) ∧
        last.src = src ∧ last.dst = dst ∧ last.mc = true

/-! ### Rings and registers -/

/-- `TxPush` (20_memory.md R56) and `RxPop` (R57). Two clauses are the model's choice: the word of an empty ring is the
free value of the draws counter, which the pop advances (log 8), and a push appends whether or not the ring is full
(log 10). -/
def Obligations.RingAccess : Prop :=
  (∀ (s : State) (w : Word),
      s.txPush w =
        { s with txring := s.txring ++ [w], hcsr := { s.hcsr with wp := s.hcsr.wp + 1 },
                 trace := s.trace ++ [.push w] }) ∧
    (∀ (s : State) (w : Word) (rest : List Word), s.rxring = w :: rest →
      s.rxFront = w ∧
        s.rxPop =
          { s with rxring := rest, ccsr := { s.ccsr with rp := s.ccsr.rp + 1 }, trace := s.trace ++ [.pop w] }) ∧
    ∀ s : State, s.rxring = [] →
      s.rxFront = Config.emptyPopWord s.draws ∧ s.rxPop =
        { s with ccsr := { s.ccsr with rp := s.ccsr.rp + 1 }, trace := s.trace ++ [.pop s.rxFront],
                 draws := s.draws + 1 }

/-- A write of flags to `HCSR` (20_memory.md R60) leaves `WP`, `RP`, `DEPTH`, `IS`, the flags not named and everything
else, and appends one event. -/
def Obligations.FlagWrite : Prop :=
  ∀ (s : State) (rst rdy ig : Option Bool),
    let t := s.writeHcsr rst rdy ig
    t.hcsr.wp = s.hcsr.wp ∧ t.hcsr.rp = s.hcsr.rp ∧ t.hcsr.depth = s.hcsr.depth ∧ t.hcsr.is = s.hcsr.is ∧
      t.hcsr.rst = rst.getD s.hcsr.rst ∧ t.hcsr.rdy = rdy.getD s.hcsr.rdy ∧ t.hcsr.ig = ig.getD s.hcsr.ig ∧
      t = { s with hcsr := t.hcsr, trace := s.trace ++ [.writeReg .hcsr t.hcsr.toWord] }

/-! ### INIT and LRESET -/

/-- A circular INIT whose first look finds the controller ready (42_cb_transport.md R141). -/
def Obligations.InitCircular : Prop :=
  ∀ s : State, s.cfg.devicePresent = true → s.cfg.kind = .circular → s.lstate = .uninit →
    s.advance.advance.ccsr.rdy = true →
    let u := s.advance.advance.advance
    let h := { u.hcsr with rst := false, rdy := true, ig := true }
    exec .init s =
      .next { u with hcsr := h, trace := s.trace ++ [Event.writeReg .hcsr h.toWord], lstate := .ready,
                     result := ResultCode.success.code, seq := .idle }

/-- A circular INIT whose controller never gets ready, on a schedule of ticks within the bound of
70_reset_and_hazards.md R252 that lasts longer than `T_INIT`: it ends `TIMEOUT` at most two bounds after its deadline,
`LSTATE` still `UNINIT`, nothing written (42_cb_transport.md R141, 40_timer.md R116). -/
def Obligations.InitTimesOut : Prop :=
  ∀ (s : State) (n : Nat) (ns : List Nat), s.Safe → s.cfg.devicePresent = true → s.cfg.kind = .circular →
    s.lstate = .uninit → s.ccsr.rdy = false → s.env = ticksOnly (n :: ns) → ns.length < 2 ^ 60 →
    (∀ m ∈ ns, m ≤ s.cfg.maxTicksPerStep) → ticksOf s.cfg 15000000 < ns.sum →
    ∃ t e, exec .init s = .next t ∧ t.result = ResultCode.timeout.code ∧ t.seq = .idle ∧
      t = { s with counter := t.counter, env := t.env, result := t.result, seq := t.seq } ∧
      t.counter.toNat = (s.counter.toNat + n + e) % 2 ^ s.cfg.cw ∧
      ticksOf s.cfg 15000000 ≤ e ∧ e ≤ ticksOf s.cfg 15000000 + 2 * s.cfg.maxTicksPerStep

/-- A circular LRESET that finds the reset accepted at its first look and the controller ready at its first look
(42_cb_transport.md R152). `s1` is the state at step 1, `s3` at the end of step 2, `s4` at the end of step 3, `s5` at
step 4. -/
def Obligations.LresetCircular : Prop :=
  ∀ s : State, s.cfg.devicePresent = true → s.cfg.kind = .circular → s.lstate ≠ .uninit →
    let s1 := { s with lstate := .resetting }.advance
    let h1 := { s1.hcsr with rst := true, ig := true }
    let s2 := { s1 with hcsr := h1, trace := s1.trace ++ [Event.writeReg .hcsr h1.toWord] }
    let s3 := s2.advance.advance
    let s4 := s3.advance.advance
    let s5 := s4.advance
    let h5 := { s5.hcsr with rst := false, rdy := true, ig := true }
    s3.hcsr.rdy = false → s4.ccsr.rdy = true →
    exec .lreset s =
      .next { s5 with hcsr := h5, trace := s5.trace ++ [Event.writeReg .hcsr h5.toWord], resync := false, lstate := .ready,
                      result := ResultCode.success.code, seq := .idle }

/-- A doorbell INIT, and a doorbell LRESET, whose coprocessor takes each of the two writes and answers each with its
management events, of either kind (44_doorbell.md R195, R201, R202). The event of the write of an empty payload is the
model's choice (log 12). -/
def Obligations.HandshakeCompletes : Prop :=
  ∀ (s : State) (acks1 acks2 : List Word), s.cfg.wf = true → s.cfg.devicePresent = true → s.cfg.kind = .doorbell →
    s.outMsg.wf = true →
    acks1.length = s.cfg.dbHsAcks → acks2.length = s.cfg.dbHsAcks →
    (∀ w ∈ acks1 ++ acks2, (Doorbell.ofWord w).proto = s.cfg.dbProtoMgmt ∧
      ((Doorbell.ofWord w).subcmd = s.cfg.dbSubCompletion ∨ (Doorbell.ofWord w).subcmd = s.cfg.dbSubResetAck)) →
    s.env = handshakeSchedule s.cfg.dbHsPayload.length acks1 acks2 →
    let t : State :=
      { s with
        dbIn := Doorbell.zero
        dbOut := { Doorbell.ofWord s.cfg.dbHsDoorbell with busy := false }
        comm := { hostReady := true, drvLoaded := true, drvReady := true }
        refclk := s.cfg.dbRefclk
        outMsg := memWriteList s.outMsg 0 s.cfg.dbHsPayload
        trace := s.trace ++ handshakeEvents s
        lstate := .ready
        result := ResultCode.success.code
        seq := .idle
        env := [] }
    (s.lstate = .uninit → exec .init s = .next t) ∧
      (s.lstate ≠ .uninit → exec .lreset s = .next { t with resync := false })

/-- A doorbell INIT or LRESET that succeeds has made exactly the accesses of the handshake, whatever the schedule: the
two rounds write identical bytes and values (44_doorbell.md R195, R202). The event of the write of an empty payload is
the model's choice (log 12). -/
def Obligations.HandshakeTrace : Prop :=
  ∀ s t : State, s.cfg.devicePresent = true → s.cfg.kind = .doorbell → s.outMsg.wf = true →
    t.seq = .idle → t.result = ResultCode.success.code →
    (s.lstate = .uninit ∧ exec .init s = .next t ∨ s.lstate ≠ .uninit ∧ exec .lreset s = .next t) →
    t.trace = s.trace ++ handshakeEvents s ∧ t.lstate = .ready ∧
      t.comm = { hostReady := true, drvLoaded := true, drvReady := true } ∧ t.refclk = s.cfg.dbRefclk

/-! ### SEND -/

/-- A circular SEND that the gate lets pass, on a quiet link with room for the whole message and the controller ready:
the exact next state (42_cb_transport.md R143, R144, R145). -/
def Obligations.SendCircular : Prop :=
  ∀ (a b : Byte) (s : State), s.env = [] → s.cfg.devicePresent = true → s.cfg.kind = .circular →
    2 ≤ s.cfg.hdepth.toNat → s.lstate = .ready → s.resync = false → s.gatePasses = true → s.ccsr.rdy = true →
    let packets := (plan s.arg0.toNat (maxPay s.cfg.hdepth)).map (packetWords b a (memRead s.msgbuf))
    let words := encodeMessage b a (memRead s.msgbuf) s.arg0.toNat (maxPay s.cfg.hdepth)
    filled s.hcsr + words.length ≤ s.hcsr.depth.toNat →
    exec (.send a b) s =
      .next { s with
        txring := s.txring ++ words
        hcsr := { s.hcsr with wp := s.hcsr.wp + BitVec.ofNat 8 words.length, ig := true }
        trace := s.trace ++ sendEvents s.hcsr packets
        result := ResultCode.success.code
        seq := .idle }

/-- The words that a successful circular SEND pushes are exactly `EncodeMessage`, in order, whatever the schedule
(42_cb_transport.md R144, 41_codec.md R135). -/
def Obligations.SendPushesTheMessage : Prop :=
  ∀ (a b : Byte) (s t : State), s.cfg.kind = .circular → clientFault (.send a b) s = false → exec (.send a b) s = .next t → t.seq = .idle →
    t.result = ResultCode.success.code →
    pushes t.trace =
      pushes s.trace ++ encodeMessage b a (memRead s.msgbuf) s.arg0.toNat (maxPay s.cfg.hdepth)

/-- A doorbell SEND of one packet on a quiet link whose outbound doorbell is idle: the exact next state
(44_doorbell.md R196, R197). That header and payload, two writes of R196, are one `WriteWin` event is the model's choice
(log 12). -/
def Obligations.SendDoorbellPacket : Prop :=
  ∀ (a b : Byte) (s : State), s.env = [] → s.cfg.devicePresent = true → s.cfg.kind = .doorbell →
    s.lstate = .ready → s.resync = false → s.gatePasses = true → s.dbOut.busy = false → s.outMsg.wf = true →
    s.arg0.toNat ≤ s.cfg.dbMaxPay → (∀ m, s.cfg.dbMaxMsg = some m → s.arg0.toNat ≤ m) →
    let bytes := windowBytes b a (memRead s.msgbuf) { off := 0, plen := s.arg0.toNat, mc := true }
    let d : Doorbell :=
      { len := BitVec.ofNat 10 (4 + s.arg0.toNat), proto := s.cfg.dbProtoPayload, subcmd := 0, busy := true }
    exec (.send a b) s =
      .next { s with
        outMsg := memWriteList s.outMsg 0 bytes
        dbOut := d
        trace := s.trace ++ [.writeWin bytes, .writeReg .dbOut d.toWord]
        result := ResultCode.success.code
        seq := .idle }

/-- The doorbells rung and the windows written by a successful doorbell SEND are those of the plan, in order, chunked
or not, whatever the schedule (44_doorbell.md R194, R196, R197). That a packet is one `WriteWin` event is the model's choice
(log 12). -/
def Obligations.SendRingsThePlan : Prop :=
  ∀ (a b : Byte) (s t : State), s.cfg.kind = .doorbell → s.outMsg.wf = true →
    clientFault (.send a b) s = false → exec (.send a b) s = .next t →
    t.seq = .idle → t.result = ResultCode.success.code →
    let ps := plan s.arg0.toNat s.cfg.dbMaxPay
    rings t.trace =
        rings s.trace ++ ps.map (fun p =>
          Doorbell.toWord { len := BitVec.ofNat 10 (4 + p.plen), proto := s.cfg.dbProtoPayload, subcmd := 0, busy := true }) ∧
      windows t.trace = windows s.trace ++ ps.map (windowBytes b a (memRead s.msgbuf))

/-- A doorbell SEND over the size limit ends `UNSUPPORTED` and writes nothing else (44_doorbell.md R197,
60_exceptions.md R231). -/
def Obligations.SendOversize : Prop :=
  ∀ (a b : Byte) (s : State) (m : Nat), s.cfg.devicePresent = true → s.cfg.kind = .doorbell → s.lstate = .ready →
    s.resync = false → s.gatePasses = true → s.cfg.dbMaxMsg = some m → m < s.arg0.toNat →
    exec (.send a b) s = .next { s.afterGate with result := ResultCode.unsupported.code, seq := .idle }

/-- A poll that finds more words than the depth ends the command `OVERFLOW`, `LSTATE` unchanged (60_exceptions.md R232).
As a whole command: SEND at its first packet, RECV at its first header. As a step on: SEND at the room wait of any
packet, RECV at the wait for any header and for any payload word, `RESYNC` set if a word has been moved (R223). All of it is
under the premise of 70_reset_and_hazards.md R246, `RESYNC = 0`, which no position of a SEND or RECV changes. -/
def Obligations.OverflowEnds : Prop :=
  (∀ s : State, s.cfg.devicePresent = true → s.cfg.kind = .circular → s.lstate = .ready → s.resync = false →
    (∀ a b : Byte, 2 ≤ s.cfg.hdepth.toNat → s.gatePasses = true →
      let u := s.afterGate.advance.advance
      u.hcsr.depth.toNat < filled u.hcsr →
        exec (.send a b) s = .next { u with result := ResultCode.overflow.code, seq := .idle }) ∧
    ∀ blk : Bool,
      let u := s.advance.advance
      u.ccsr.depth.toNat < filled u.ccsr →
        exec (.recv blk) s = .next { u with res0 := 0, result := ResultCode.overflow.code, seq := .idle }) ∧
    ∀ (s : State) (tm : Timer), s.cfg.wf = true → s.resync = false →
      let u := s.advance
      (∀ c : SendCtx, s.seq = .busy (.pollCond (.sendRoom c) tm) → u.hcsr.depth.toNat < filled u.hcsr →
        step s = .next { u with resync := c.moved, result := ResultCode.overflow.code, seq := .idle }) ∧
      ∀ c : RecvCtx, (s.seq = .busy (.pollCond (.recvHeader c) tm) ∨
          ∃ p, s.seq = .busy (.pollCond (.recvWord c p) tm)) → u.ccsr.depth.toNat < filled u.ccsr →
        step s = .next { u with res0 := 0, resync := c.moved, result := ResultCode.overflow.code, seq := .idle }

/-! ### RECV -/

/-- A circular RECV, blocking or not, of a whole message that lies in the ring of a quiet link: the exact next state,
with truncation (42_cb_transport.md R148, R149). -/
def Obligations.RecvCircular : Prop :=
  ∀ (blk : Bool) (s : State) (bytes : List Byte) (last : Header) (rest : List Word), s.env = [] →
    s.cfg.devicePresent = true → s.cfg.kind = .circular → s.lstate = .ready → s.resync = false →
    s.ccsr.rdy = true → filled s.ccsr = s.rxring.length → s.rxring.length ≤ s.ccsr.depth.toNat →
    decodeMessage s.rxring = some (bytes, last, rest) →
    let k := s.rxring.length - rest.length
    let m := s.arg0.toNat
    ∃ hw : Word, decodeHeader hw = last ∧
      exec (.recv blk) s =
        .next { s with
          rxring := rest
          ccsr := { s.ccsr with rp := s.ccsr.rp + BitVec.ofNat 8 k }
          trace := s.trace ++ (s.rxring.take k).map .pop
          msgbuf := memWriteList s.msgbuf 0 (bytes.take m)
          res0 := BitVec.ofNat 32 (min bytes.length m)
          res1 := hw
          res2 := BitVec.ofNat 32 bytes.length
          result := if bytes.length ≤ m then ResultCode.success.code else ResultCode.bufferTooSmall.code
          seq := .idle }

/-- What a circular RECV that ends `SUCCESS` or `BUFFER_TOO_SMALL` has done, whatever the schedule: it has popped one
whole message and nothing more, and reports it (42_cb_transport.md R148, R149, 41_codec.md R136). -/
def Obligations.RecvDrainsOneMessage : Prop :=
  ∀ (blk : Bool) (s t : State), s.cfg.kind = .circular → s.msgbuf.wf = true → clientFault (.recv blk) s = false → exec (.recv blk) s = .next t →
    t.seq = .idle → t.result = ResultCode.success.code ∨ t.result = ResultCode.bufferTooSmall.code →
    ∃ (ws : List Word) (bytes : List Byte) (last : Header),
      pops t.trace = pops s.trace ++ ws ∧ decodeMessage ws = some (bytes, last, []) ∧ decodeHeader t.res1 = last ∧
        (t.result = ResultCode.success.code ↔ bytes.length ≤ s.arg0.toNat) ∧
        t.res0.toNat = min bytes.length s.arg0.toNat ∧
        (bytes.length < 2 ^ 32 → t.res2.toNat = bytes.length) ∧
        ∀ k, memRead t.msgbuf k =
          if k < min bytes.length s.arg0.toNat then bytes.getD k 0 else memRead s.msgbuf k

/-- RECV of either kind never writes a byte at or above its capacity, however it ends and whatever the schedule
(10_state.md R41, 20_memory.md R58). -/
def Obligations.RecvStaysInCapacity : Prop :=
  ∀ (blk : Bool) (s t : State), s.msgbuf.wf = true → clientFault (.recv blk) s = false → exec (.recv blk) s = .next t →
    ∀ k, s.arg0.toNat ≤ k → memRead t.msgbuf k = memRead s.msgbuf k

/-- `NO_DATA` (60_exceptions.md R220): a non-blocking RECV whose one look finds nothing changes nothing but `RESULT`;
a blocking RECV never ends so. -/
def Obligations.RecvNoData : Prop :=
  (∀ s : State, s.Inv → s.cfg.devicePresent = true → s.lstate = .ready → s.resync = false →
      (if s.cfg.kind = .circular then filled s.advance.advance.ccsr = 0 else s.advance.advance.dbIn.busy = false) →
      exec (.recv false) s =
        .next { s.advance.advance.advance with result := ResultCode.noData.code, seq := .idle }) ∧
    ∀ s t : State, clientFault (.recv true) s = false → exec (.recv true) s = .next t → t.seq = .idle → t.result ≠ ResultCode.noData.code

/-- A doorbell RECV of one packet from a quiet coprocessor: the exact next state, with truncation (44_doorbell.md
R199). -/
def Obligations.RecvDoorbellPacket : Prop :=
  ∀ (blk : Bool) (s : State), s.env = [] → s.cfg.devicePresent = true → s.cfg.kind = .doorbell →
    s.lstate = .ready → s.resync = false → s.dbIn.busy = true → s.dbIn.proto = s.cfg.dbProtoPayload →
    let hw := windowHeader s.inMsg
    let n := (decodeHeader hw).len.toNat
    (decodeHeader hw).mc = true → n ≤ s.cfg.dbMaxPay → s.dbIn.len.toNat = 4 + n →
    exec (.recv blk) s =
      .next { s with
        msgbuf := memWriteList s.msgbuf 0 ((messageBytes (fun k => memRead s.inMsg (4 + k)) n).take s.arg0.toNat)
        dbIn := Doorbell.zero
        trace := s.trace ++ [.writeReg .dbIn 0]
        res0 := BitVec.ofNat 32 (min n s.arg0.toNat)
        res1 := hw
        res2 := BitVec.ofNat 32 n
        result := if n ≤ s.arg0.toNat then ResultCode.success.code else ResultCode.bufferTooSmall.code
        seq := .idle }

/-- A doorbell RECV, blocking or not, of a whole message from a coprocessor that posts it packet by packet: the exact next
state, with truncation (44_doorbell.md R199). The message is cut anyhow, its packets no longer than `DB_MAXPAY`; the
premises on the counts keep `RES2` stated (log 9) and the run within one step (log 23). -/
def Obligations.RecvDoorbellMessage : Prop :=
  ∀ (a b : Byte) (blk : Bool) (s : State) (chunks : List (List Byte)) (final : List Byte), s.cfg.wf = true →
    s.cfg.devicePresent = true → s.cfg.kind = .doorbell → s.lstate = .ready → s.resync = false →
    s.dbIn.busy = false → s.inMsg.wf = true → (∀ bs ∈ chunks ++ [final], bs.length ≤ s.cfg.dbMaxPay) → chunks.length < 2 ^ 32 →
    let bytes := (chunks ++ [final]).flatten
    let packets := inboundPackets b a (chunks ++ [final])
    let m := s.arg0.toNat
    bytes.length < 2 ^ 32 → s.env = inboundSchedule s.cfg m packets →
    exec (.recv blk) s =
      .next { s with
        msgbuf := memWriteList s.msgbuf 0 (bytes.take m)
        inMsg := packets.foldl (fun w p => memWriteList w 0 p) s.inMsg
        dbIn := Doorbell.zero
        trace := s.trace ++ packets.map fun _ => .writeReg .dbIn 0
        res0 := BitVec.ofNat 32 (min bytes.length m)
        res1 := encodeHeader b a (BitVec.ofNat 9 final.length) true
        res2 := BitVec.ofNat 32 bytes.length
        result := if bytes.length ≤ m then ResultCode.success.code else ResultCode.bufferTooSmall.code
        seq := .idle
        env := [] }

/-- The causes of `PROTOCOL_ERROR` in a doorbell RECV (44_doorbell.md R199, R200, 60_exceptions.md R230): an event of
another protocol, whatever the schedule; and, the coprocessor quiet, a header that claims more than `DB_MAXPAY` bytes or
not the length of the doorbell. The command leaves the event where it is and sets `RESYNC`. -/
def Obligations.RecvWrongProtocol : Prop :=
  ∀ (blk : Bool) (s : State), s.cfg.devicePresent = true → s.cfg.kind = .doorbell → s.lstate = .ready →
    s.resync = false →
    (let u := s.advance.advance
    u.dbIn.busy = true → u.dbIn.proto ≠ s.cfg.dbProtoPayload →
      exec (.recv blk) s =
        .next { u with res0 := 0, resync := true, result := ResultCode.protocolError.code, seq := .idle }) ∧
    (let n := (decodeHeader (windowHeader s.inMsg)).len.toNat
    s.env = [] → s.dbIn.busy = true → s.dbIn.proto = s.cfg.dbProtoPayload →
      (s.cfg.dbMaxPay < n ∨ s.dbIn.len.toNat ≠ 4 + n) →
      exec (.recv blk) s =
        .next { s with res0 := 0, resync := true, result := ResultCode.protocolError.code, seq := .idle })

/-- The round trip of 42_cb_transport.md R154, in three parts.
(i) On an empty quiet link, a SEND, the controller moving the words to the other ring between the commands, and a RECV
give the message back.
(ii) Under a loopback that moves a word before every engine step, with whatever ticks, a SEND and then a RECV, blocking
or not, of a message of any length whose words fit `CDEPTH` both end `SUCCESS` and give the message back; the headers
pushed are as many as the message needs, `MC` set on exactly the last. The number of entries that the schedule must have
is no fewer than the engine steps of the SEND.
(iii) Under a loopback at any pace, a SEND that has ended, and not for a timeout, and then a RECV.B that has ended, and
not for a timeout, have both ended `SUCCESS` and give the message back. -/
def Obligations.SendThenRecv : Prop :=
  (∀ (a b : Byte) (blk : Bool) (s : State) (max : Word) (buf : Memory), s.env = [] → s.cfg.wf = true →
    s.cfg.devicePresent = true → s.cfg.kind = .circular → s.lstate = .ready → s.resync = false →
    s.gatePasses = true → s.ccsr.rdy = true → s.txring = [] → s.rxring = [] → filled s.hcsr = 0 →
    filled s.ccsr = 0 → buf.wf = true → s.arg0.toNat ≤ max.toNat →
    let words := encodeMessage b a (memRead s.msgbuf) s.arg0.toNat (maxPay s.cfg.hdepth)
    words.length ≤ s.hcsr.depth.toNat → words.length ≤ s.ccsr.depth.toNat →
    ∃ t v,
      exec (.send a b) s = .next t ∧ t.result = ResultCode.success.code ∧ t.txring = words ∧
        exec (.recv blk)
            { t with
              txring := []
              hcsr := { t.hcsr with rp := t.hcsr.wp }
              rxring := t.txring
              ccsr := { t.ccsr with wp := t.ccsr.wp + BitVec.ofNat 8 words.length }
              arg0 := max
              msgbuf := buf } = .next v ∧
        v.result = ResultCode.success.code ∧ v.res0 = s.arg0 ∧ v.res2 = s.arg0 ∧ v.rxring = [] ∧
        memBytes v.msgbuf s.arg0.toNat = memBytes s.msgbuf s.arg0.toNat) ∧
  (∀ (a b : Byte) (blk : Bool) (s : State) (max : Word) (buf : Memory), s.LinkIdle → s.gatePasses = true →
    buf.wf = true → s.arg0.toNat ≤ max.toNat →
    let packets := plan s.arg0.toNat (maxPay s.cfg.hdepth)
    let words := encodeMessage b a (memRead s.msgbuf) s.arg0.toNat (maxPay s.cfg.hdepth)
    words.length ≤ s.cfg.cdepth.toNat → loopbackPrompt s.env → 4 + 5 * words.length ≤ s.env.length →
    (∃ t v,
      exec (.send a b) s = .next t ∧ t.seq = .idle ∧ t.result = ResultCode.success.code ∧ t.txring = [] ∧
        t.rxring = words ∧ pushes t.trace = pushes s.trace ++ words ∧
        exec (.recv blk) { t with arg0 := max, msgbuf := buf } = .next v ∧ v.seq = .idle ∧
        v.result = ResultCode.success.code ∧ v.res0 = s.arg0 ∧ v.res2 = s.arg0 ∧ v.txring = [] ∧ v.rxring = [] ∧
        memBytes v.msgbuf s.arg0.toNat = memBytes s.msgbuf s.arg0.toNat) ∧
      words = packets.flatMap (packetWords b a (memRead s.msgbuf)) ∧
      packets.length = (if s.arg0 = 0 then 1
        else (s.arg0.toNat + maxPay s.cfg.hdepth - 1) / maxPay s.cfg.hdepth) ∧
      ∀ (i : Nat) (h : i < packets.length),
        (decodeHeader ((packetWords b a (memRead s.msgbuf) packets[i]).headD 0)).mc = true ↔ i + 1 = packets.length) ∧
  ∀ (a b : Byte) (s t v : State) (max : Word) (buf : Memory), s.LinkIdle → s.gatePasses = true → buf.wf = true →
    s.arg0.toNat ≤ max.toNat → loopbackOnly s.env →
    exec (.send a b) s = .next t → t.seq = .idle → t.result ≠ ResultCode.timeout.code →
    exec (.recv true) { t with arg0 := max, msgbuf := buf } = .next v → v.seq = .idle →
    v.result ≠ ResultCode.timeout.code →
      t.result = ResultCode.success.code ∧ v.result = ResultCode.success.code ∧ v.res0 = s.arg0 ∧ v.res2 = s.arg0 ∧
        v.txring = [] ∧ v.rxring = [] ∧
        memBytes v.msgbuf s.arg0.toNat = memBytes s.msgbuf s.arg0.toNat
end

