-- ==== Sys2Proof/Laws/State.lean ====
section
/-! SUPPORT. What each named update of the state leaves in each field: one lemma per field per update, so that no
proof unfolds an update. -/

namespace Sys2Proof.Machine

/-! ### `State.goto` -/

@[simp] theorem State.goto_cfg (s : State) (p : Pos) : (s.goto p).cfg = s.cfg := rfl
@[simp] theorem State.goto_hcsr (s : State) (p : Pos) : (s.goto p).hcsr = s.hcsr := rfl
@[simp] theorem State.goto_ccsr (s : State) (p : Pos) : (s.goto p).ccsr = s.ccsr := rfl
@[simp] theorem State.goto_txring (s : State) (p : Pos) : (s.goto p).txring = s.txring := rfl
@[simp] theorem State.goto_rxring (s : State) (p : Pos) : (s.goto p).rxring = s.rxring := rfl
@[simp] theorem State.goto_counter (s : State) (p : Pos) : (s.goto p).counter = s.counter := rfl
@[simp] theorem State.goto_lstate (s : State) (p : Pos) : (s.goto p).lstate = s.lstate := rfl
@[simp] theorem State.goto_resync (s : State) (p : Pos) : (s.goto p).resync = s.resync := rfl
@[simp] theorem State.goto_stsA (s : State) (p : Pos) : (s.goto p).stsA = s.stsA := rfl
@[simp] theorem State.goto_stsB (s : State) (p : Pos) : (s.goto p).stsB = s.stsB := rfl
@[simp] theorem State.goto_dbOut (s : State) (p : Pos) : (s.goto p).dbOut = s.dbOut := rfl
@[simp] theorem State.goto_dbIn (s : State) (p : Pos) : (s.goto p).dbIn = s.dbIn := rfl
@[simp] theorem State.goto_comm (s : State) (p : Pos) : (s.goto p).comm = s.comm := rfl
@[simp] theorem State.goto_refclk (s : State) (p : Pos) : (s.goto p).refclk = s.refclk := rfl
@[simp] theorem State.goto_outMsg (s : State) (p : Pos) : (s.goto p).outMsg = s.outMsg := rfl
@[simp] theorem State.goto_inMsg (s : State) (p : Pos) : (s.goto p).inMsg = s.inMsg := rfl
@[simp] theorem State.goto_trace (s : State) (p : Pos) : (s.goto p).trace = s.trace := rfl
@[simp] theorem State.goto_cmd (s : State) (p : Pos) : (s.goto p).cmd = s.cmd := rfl
@[simp] theorem State.goto_arg0 (s : State) (p : Pos) : (s.goto p).arg0 = s.arg0 := rfl
@[simp] theorem State.goto_arg1 (s : State) (p : Pos) : (s.goto p).arg1 = s.arg1 := rfl
@[simp] theorem State.goto_result (s : State) (p : Pos) : (s.goto p).result = s.result := rfl
@[simp] theorem State.goto_res0 (s : State) (p : Pos) : (s.goto p).res0 = s.res0 := rfl
@[simp] theorem State.goto_res1 (s : State) (p : Pos) : (s.goto p).res1 = s.res1 := rfl
@[simp] theorem State.goto_res2 (s : State) (p : Pos) : (s.goto p).res2 = s.res2 := rfl
@[simp] theorem State.goto_msgbuf (s : State) (p : Pos) : (s.goto p).msgbuf = s.msgbuf := rfl
@[simp] theorem State.goto_seq (s : State) (p : Pos) : (s.goto p).seq = .busy p := rfl
@[simp] theorem State.goto_env (s : State) (p : Pos) : (s.goto p).env = s.env := rfl
@[simp] theorem State.goto_client (s : State) (p : Pos) : (s.goto p).client = s.client := rfl
@[simp] theorem State.goto_draws (s : State) (p : Pos) : (s.goto p).draws = s.draws := rfl

/-! ### `State.poll` -/

@[simp] theorem State.poll_cfg (s : State) (w : Wait) : (s.poll w).cfg = s.cfg := rfl
@[simp] theorem State.poll_hcsr (s : State) (w : Wait) : (s.poll w).hcsr = s.hcsr := rfl
@[simp] theorem State.poll_ccsr (s : State) (w : Wait) : (s.poll w).ccsr = s.ccsr := rfl
@[simp] theorem State.poll_txring (s : State) (w : Wait) : (s.poll w).txring = s.txring := rfl
@[simp] theorem State.poll_rxring (s : State) (w : Wait) : (s.poll w).rxring = s.rxring := rfl
@[simp] theorem State.poll_counter (s : State) (w : Wait) : (s.poll w).counter = s.counter := rfl
@[simp] theorem State.poll_lstate (s : State) (w : Wait) : (s.poll w).lstate = s.lstate := rfl
@[simp] theorem State.poll_resync (s : State) (w : Wait) : (s.poll w).resync = s.resync := rfl
@[simp] theorem State.poll_stsA (s : State) (w : Wait) : (s.poll w).stsA = s.stsA := rfl
@[simp] theorem State.poll_stsB (s : State) (w : Wait) : (s.poll w).stsB = s.stsB := rfl
@[simp] theorem State.poll_dbOut (s : State) (w : Wait) : (s.poll w).dbOut = s.dbOut := rfl
@[simp] theorem State.poll_dbIn (s : State) (w : Wait) : (s.poll w).dbIn = s.dbIn := rfl
@[simp] theorem State.poll_comm (s : State) (w : Wait) : (s.poll w).comm = s.comm := rfl
@[simp] theorem State.poll_refclk (s : State) (w : Wait) : (s.poll w).refclk = s.refclk := rfl
@[simp] theorem State.poll_outMsg (s : State) (w : Wait) : (s.poll w).outMsg = s.outMsg := rfl
@[simp] theorem State.poll_inMsg (s : State) (w : Wait) : (s.poll w).inMsg = s.inMsg := rfl
@[simp] theorem State.poll_trace (s : State) (w : Wait) : (s.poll w).trace = s.trace := rfl
@[simp] theorem State.poll_cmd (s : State) (w : Wait) : (s.poll w).cmd = s.cmd := rfl
@[simp] theorem State.poll_arg0 (s : State) (w : Wait) : (s.poll w).arg0 = s.arg0 := rfl
@[simp] theorem State.poll_arg1 (s : State) (w : Wait) : (s.poll w).arg1 = s.arg1 := rfl
@[simp] theorem State.poll_result (s : State) (w : Wait) : (s.poll w).result = s.result := rfl
@[simp] theorem State.poll_res0 (s : State) (w : Wait) : (s.poll w).res0 = s.res0 := rfl
@[simp] theorem State.poll_res1 (s : State) (w : Wait) : (s.poll w).res1 = s.res1 := rfl
@[simp] theorem State.poll_res2 (s : State) (w : Wait) : (s.poll w).res2 = s.res2 := rfl
@[simp] theorem State.poll_msgbuf (s : State) (w : Wait) : (s.poll w).msgbuf = s.msgbuf := rfl
@[simp] theorem State.poll_seq (s : State) (w : Wait) : (s.poll w).seq = .busy (.pollStart w) := rfl
@[simp] theorem State.poll_env (s : State) (w : Wait) : (s.poll w).env = s.env := rfl
@[simp] theorem State.poll_client (s : State) (w : Wait) : (s.poll w).client = s.client := rfl
@[simp] theorem State.poll_draws (s : State) (w : Wait) : (s.poll w).draws = s.draws := rfl

/-! ### `State.ret` -/

@[simp] theorem State.ret_cfg (s : State) (c : ResultCode) : (s.ret c).cfg = s.cfg := rfl
@[simp] theorem State.ret_hcsr (s : State) (c : ResultCode) : (s.ret c).hcsr = s.hcsr := rfl
@[simp] theorem State.ret_ccsr (s : State) (c : ResultCode) : (s.ret c).ccsr = s.ccsr := rfl
@[simp] theorem State.ret_txring (s : State) (c : ResultCode) : (s.ret c).txring = s.txring := rfl
@[simp] theorem State.ret_rxring (s : State) (c : ResultCode) : (s.ret c).rxring = s.rxring := rfl
@[simp] theorem State.ret_counter (s : State) (c : ResultCode) : (s.ret c).counter = s.counter := rfl
@[simp] theorem State.ret_lstate (s : State) (c : ResultCode) : (s.ret c).lstate = s.lstate := rfl
@[simp] theorem State.ret_resync (s : State) (c : ResultCode) : (s.ret c).resync = s.resync := rfl
@[simp] theorem State.ret_stsA (s : State) (c : ResultCode) : (s.ret c).stsA = s.stsA := rfl
@[simp] theorem State.ret_stsB (s : State) (c : ResultCode) : (s.ret c).stsB = s.stsB := rfl
@[simp] theorem State.ret_dbOut (s : State) (c : ResultCode) : (s.ret c).dbOut = s.dbOut := rfl
@[simp] theorem State.ret_dbIn (s : State) (c : ResultCode) : (s.ret c).dbIn = s.dbIn := rfl
@[simp] theorem State.ret_comm (s : State) (c : ResultCode) : (s.ret c).comm = s.comm := rfl
@[simp] theorem State.ret_refclk (s : State) (c : ResultCode) : (s.ret c).refclk = s.refclk := rfl
@[simp] theorem State.ret_outMsg (s : State) (c : ResultCode) : (s.ret c).outMsg = s.outMsg := rfl
@[simp] theorem State.ret_inMsg (s : State) (c : ResultCode) : (s.ret c).inMsg = s.inMsg := rfl
@[simp] theorem State.ret_trace (s : State) (c : ResultCode) : (s.ret c).trace = s.trace := rfl
@[simp] theorem State.ret_cmd (s : State) (c : ResultCode) : (s.ret c).cmd = s.cmd := rfl
@[simp] theorem State.ret_arg0 (s : State) (c : ResultCode) : (s.ret c).arg0 = s.arg0 := rfl
@[simp] theorem State.ret_arg1 (s : State) (c : ResultCode) : (s.ret c).arg1 = s.arg1 := rfl
@[simp] theorem State.ret_result (s : State) (c : ResultCode) : (s.ret c).result = c.code := rfl
@[simp] theorem State.ret_res0 (s : State) (c : ResultCode) : (s.ret c).res0 = s.res0 := rfl
@[simp] theorem State.ret_res1 (s : State) (c : ResultCode) : (s.ret c).res1 = s.res1 := rfl
@[simp] theorem State.ret_res2 (s : State) (c : ResultCode) : (s.ret c).res2 = s.res2 := rfl
@[simp] theorem State.ret_msgbuf (s : State) (c : ResultCode) : (s.ret c).msgbuf = s.msgbuf := rfl
@[simp] theorem State.ret_seq (s : State) (c : ResultCode) : (s.ret c).seq = .idle := rfl
@[simp] theorem State.ret_env (s : State) (c : ResultCode) : (s.ret c).env = s.env := rfl
@[simp] theorem State.ret_client (s : State) (c : ResultCode) : (s.ret c).client = s.client := rfl
@[simp] theorem State.ret_draws (s : State) (c : ResultCode) : (s.ret c).draws = s.draws := rfl

/-! ### `State.setLink` -/

@[simp] theorem State.setLink_cfg (s : State) (l : LState) : (s.setLink l).cfg = s.cfg := rfl
@[simp] theorem State.setLink_hcsr (s : State) (l : LState) : (s.setLink l).hcsr = s.hcsr := rfl
@[simp] theorem State.setLink_ccsr (s : State) (l : LState) : (s.setLink l).ccsr = s.ccsr := rfl
@[simp] theorem State.setLink_txring (s : State) (l : LState) : (s.setLink l).txring = s.txring := rfl
@[simp] theorem State.setLink_rxring (s : State) (l : LState) : (s.setLink l).rxring = s.rxring := rfl
@[simp] theorem State.setLink_counter (s : State) (l : LState) : (s.setLink l).counter = s.counter := rfl
@[simp] theorem State.setLink_lstate (s : State) (l : LState) : (s.setLink l).lstate = l := rfl
@[simp] theorem State.setLink_resync (s : State) (l : LState) : (s.setLink l).resync = s.resync := rfl
@[simp] theorem State.setLink_stsA (s : State) (l : LState) : (s.setLink l).stsA = s.stsA := rfl
@[simp] theorem State.setLink_stsB (s : State) (l : LState) : (s.setLink l).stsB = s.stsB := rfl
@[simp] theorem State.setLink_dbOut (s : State) (l : LState) : (s.setLink l).dbOut = s.dbOut := rfl
@[simp] theorem State.setLink_dbIn (s : State) (l : LState) : (s.setLink l).dbIn = s.dbIn := rfl
@[simp] theorem State.setLink_comm (s : State) (l : LState) : (s.setLink l).comm = s.comm := rfl
@[simp] theorem State.setLink_refclk (s : State) (l : LState) : (s.setLink l).refclk = s.refclk := rfl
@[simp] theorem State.setLink_outMsg (s : State) (l : LState) : (s.setLink l).outMsg = s.outMsg := rfl
@[simp] theorem State.setLink_inMsg (s : State) (l : LState) : (s.setLink l).inMsg = s.inMsg := rfl
@[simp] theorem State.setLink_trace (s : State) (l : LState) : (s.setLink l).trace = s.trace := rfl
@[simp] theorem State.setLink_cmd (s : State) (l : LState) : (s.setLink l).cmd = s.cmd := rfl
@[simp] theorem State.setLink_arg0 (s : State) (l : LState) : (s.setLink l).arg0 = s.arg0 := rfl
@[simp] theorem State.setLink_arg1 (s : State) (l : LState) : (s.setLink l).arg1 = s.arg1 := rfl
@[simp] theorem State.setLink_result (s : State) (l : LState) : (s.setLink l).result = s.result := rfl
@[simp] theorem State.setLink_res0 (s : State) (l : LState) : (s.setLink l).res0 = s.res0 := rfl
@[simp] theorem State.setLink_res1 (s : State) (l : LState) : (s.setLink l).res1 = s.res1 := rfl
@[simp] theorem State.setLink_res2 (s : State) (l : LState) : (s.setLink l).res2 = s.res2 := rfl
@[simp] theorem State.setLink_msgbuf (s : State) (l : LState) : (s.setLink l).msgbuf = s.msgbuf := rfl
@[simp] theorem State.setLink_seq (s : State) (l : LState) : (s.setLink l).seq = s.seq := rfl
@[simp] theorem State.setLink_env (s : State) (l : LState) : (s.setLink l).env = s.env := rfl
@[simp] theorem State.setLink_client (s : State) (l : LState) : (s.setLink l).client = s.client := rfl
@[simp] theorem State.setLink_draws (s : State) (l : LState) : (s.setLink l).draws = s.draws := rfl

/-! ### `State.linkUp` -/

@[simp] theorem State.linkUp_cfg (s : State) : (s.linkUp).cfg = s.cfg := rfl
@[simp] theorem State.linkUp_hcsr (s : State) : (s.linkUp).hcsr = s.hcsr := rfl
@[simp] theorem State.linkUp_ccsr (s : State) : (s.linkUp).ccsr = s.ccsr := rfl
@[simp] theorem State.linkUp_txring (s : State) : (s.linkUp).txring = s.txring := rfl
@[simp] theorem State.linkUp_rxring (s : State) : (s.linkUp).rxring = s.rxring := rfl
@[simp] theorem State.linkUp_counter (s : State) : (s.linkUp).counter = s.counter := rfl
@[simp] theorem State.linkUp_lstate (s : State) : (s.linkUp).lstate = .ready := rfl
@[simp] theorem State.linkUp_resync (s : State) : (s.linkUp).resync = s.resync := rfl
@[simp] theorem State.linkUp_stsA (s : State) : (s.linkUp).stsA = s.stsA := rfl
@[simp] theorem State.linkUp_stsB (s : State) : (s.linkUp).stsB = s.stsB := rfl
@[simp] theorem State.linkUp_dbOut (s : State) : (s.linkUp).dbOut = s.dbOut := rfl
@[simp] theorem State.linkUp_dbIn (s : State) : (s.linkUp).dbIn = s.dbIn := rfl
@[simp] theorem State.linkUp_comm (s : State) : (s.linkUp).comm = s.comm := rfl
@[simp] theorem State.linkUp_refclk (s : State) : (s.linkUp).refclk = s.refclk := rfl
@[simp] theorem State.linkUp_outMsg (s : State) : (s.linkUp).outMsg = s.outMsg := rfl
@[simp] theorem State.linkUp_inMsg (s : State) : (s.linkUp).inMsg = s.inMsg := rfl
@[simp] theorem State.linkUp_trace (s : State) : (s.linkUp).trace = s.trace := rfl
@[simp] theorem State.linkUp_cmd (s : State) : (s.linkUp).cmd = s.cmd := rfl
@[simp] theorem State.linkUp_arg0 (s : State) : (s.linkUp).arg0 = s.arg0 := rfl
@[simp] theorem State.linkUp_arg1 (s : State) : (s.linkUp).arg1 = s.arg1 := rfl
@[simp] theorem State.linkUp_result (s : State) : (s.linkUp).result = ResultCode.success.code := rfl
@[simp] theorem State.linkUp_res0 (s : State) : (s.linkUp).res0 = s.res0 := rfl
@[simp] theorem State.linkUp_res1 (s : State) : (s.linkUp).res1 = s.res1 := rfl
@[simp] theorem State.linkUp_res2 (s : State) : (s.linkUp).res2 = s.res2 := rfl
@[simp] theorem State.linkUp_msgbuf (s : State) : (s.linkUp).msgbuf = s.msgbuf := rfl
@[simp] theorem State.linkUp_seq (s : State) : (s.linkUp).seq = .idle := rfl
@[simp] theorem State.linkUp_env (s : State) : (s.linkUp).env = s.env := rfl
@[simp] theorem State.linkUp_client (s : State) : (s.linkUp).client = s.client := rfl
@[simp] theorem State.linkUp_draws (s : State) : (s.linkUp).draws = s.draws := rfl

/-! ### `State.linkResynced` -/

@[simp] theorem State.linkResynced_cfg (s : State) : (s.linkResynced).cfg = s.cfg := rfl
@[simp] theorem State.linkResynced_hcsr (s : State) : (s.linkResynced).hcsr = s.hcsr := rfl
@[simp] theorem State.linkResynced_ccsr (s : State) : (s.linkResynced).ccsr = s.ccsr := rfl
@[simp] theorem State.linkResynced_txring (s : State) : (s.linkResynced).txring = s.txring := rfl
@[simp] theorem State.linkResynced_rxring (s : State) : (s.linkResynced).rxring = s.rxring := rfl
@[simp] theorem State.linkResynced_counter (s : State) : (s.linkResynced).counter = s.counter := rfl
@[simp] theorem State.linkResynced_lstate (s : State) : (s.linkResynced).lstate = .ready := rfl
@[simp] theorem State.linkResynced_resync (s : State) : (s.linkResynced).resync = false := rfl
@[simp] theorem State.linkResynced_stsA (s : State) : (s.linkResynced).stsA = s.stsA := rfl
@[simp] theorem State.linkResynced_stsB (s : State) : (s.linkResynced).stsB = s.stsB := rfl
@[simp] theorem State.linkResynced_dbOut (s : State) : (s.linkResynced).dbOut = s.dbOut := rfl
@[simp] theorem State.linkResynced_dbIn (s : State) : (s.linkResynced).dbIn = s.dbIn := rfl
@[simp] theorem State.linkResynced_comm (s : State) : (s.linkResynced).comm = s.comm := rfl
@[simp] theorem State.linkResynced_refclk (s : State) : (s.linkResynced).refclk = s.refclk := rfl
@[simp] theorem State.linkResynced_outMsg (s : State) : (s.linkResynced).outMsg = s.outMsg := rfl
@[simp] theorem State.linkResynced_inMsg (s : State) : (s.linkResynced).inMsg = s.inMsg := rfl
@[simp] theorem State.linkResynced_trace (s : State) : (s.linkResynced).trace = s.trace := rfl
@[simp] theorem State.linkResynced_cmd (s : State) : (s.linkResynced).cmd = s.cmd := rfl
@[simp] theorem State.linkResynced_arg0 (s : State) : (s.linkResynced).arg0 = s.arg0 := rfl
@[simp] theorem State.linkResynced_arg1 (s : State) : (s.linkResynced).arg1 = s.arg1 := rfl
@[simp] theorem State.linkResynced_result (s : State) : (s.linkResynced).result = ResultCode.success.code := rfl
@[simp] theorem State.linkResynced_res0 (s : State) : (s.linkResynced).res0 = s.res0 := rfl
@[simp] theorem State.linkResynced_res1 (s : State) : (s.linkResynced).res1 = s.res1 := rfl
@[simp] theorem State.linkResynced_res2 (s : State) : (s.linkResynced).res2 = s.res2 := rfl
@[simp] theorem State.linkResynced_msgbuf (s : State) : (s.linkResynced).msgbuf = s.msgbuf := rfl
@[simp] theorem State.linkResynced_seq (s : State) : (s.linkResynced).seq = .idle := rfl
@[simp] theorem State.linkResynced_env (s : State) : (s.linkResynced).env = s.env := rfl
@[simp] theorem State.linkResynced_client (s : State) : (s.linkResynced).client = s.client := rfl
@[simp] theorem State.linkResynced_draws (s : State) : (s.linkResynced).draws = s.draws := rfl

/-! ### `State.abort` -/

@[simp] theorem State.abort_cfg (s : State) (c : ResultCode) (m : Bool) : (s.abort c m).cfg = s.cfg := rfl
@[simp] theorem State.abort_hcsr (s : State) (c : ResultCode) (m : Bool) : (s.abort c m).hcsr = s.hcsr := rfl
@[simp] theorem State.abort_ccsr (s : State) (c : ResultCode) (m : Bool) : (s.abort c m).ccsr = s.ccsr := rfl
@[simp] theorem State.abort_txring (s : State) (c : ResultCode) (m : Bool) : (s.abort c m).txring = s.txring := rfl
@[simp] theorem State.abort_rxring (s : State) (c : ResultCode) (m : Bool) : (s.abort c m).rxring = s.rxring := rfl
@[simp] theorem State.abort_counter (s : State) (c : ResultCode) (m : Bool) : (s.abort c m).counter = s.counter := rfl
@[simp] theorem State.abort_lstate (s : State) (c : ResultCode) (m : Bool) :
    (s.abort c m).lstate = if c = .notReady then .resetting else s.lstate := rfl
@[simp] theorem State.abort_resync (s : State) (c : ResultCode) (m : Bool) :
    (s.abort c m).resync = (s.resync || m || decide (c = .notReady) || decide (c = .protocolError)) := rfl
@[simp] theorem State.abort_stsA (s : State) (c : ResultCode) (m : Bool) : (s.abort c m).stsA = s.stsA := rfl
@[simp] theorem State.abort_stsB (s : State) (c : ResultCode) (m : Bool) : (s.abort c m).stsB = s.stsB := rfl
@[simp] theorem State.abort_dbOut (s : State) (c : ResultCode) (m : Bool) : (s.abort c m).dbOut = s.dbOut := rfl
@[simp] theorem State.abort_dbIn (s : State) (c : ResultCode) (m : Bool) : (s.abort c m).dbIn = s.dbIn := rfl
@[simp] theorem State.abort_comm (s : State) (c : ResultCode) (m : Bool) : (s.abort c m).comm = s.comm := rfl
@[simp] theorem State.abort_refclk (s : State) (c : ResultCode) (m : Bool) : (s.abort c m).refclk = s.refclk := rfl
@[simp] theorem State.abort_outMsg (s : State) (c : ResultCode) (m : Bool) : (s.abort c m).outMsg = s.outMsg := rfl
@[simp] theorem State.abort_inMsg (s : State) (c : ResultCode) (m : Bool) : (s.abort c m).inMsg = s.inMsg := rfl
@[simp] theorem State.abort_trace (s : State) (c : ResultCode) (m : Bool) : (s.abort c m).trace = s.trace := rfl
@[simp] theorem State.abort_cmd (s : State) (c : ResultCode) (m : Bool) : (s.abort c m).cmd = s.cmd := rfl
@[simp] theorem State.abort_arg0 (s : State) (c : ResultCode) (m : Bool) : (s.abort c m).arg0 = s.arg0 := rfl
@[simp] theorem State.abort_arg1 (s : State) (c : ResultCode) (m : Bool) : (s.abort c m).arg1 = s.arg1 := rfl
@[simp] theorem State.abort_result (s : State) (c : ResultCode) (m : Bool) : (s.abort c m).result = s.result := rfl
@[simp] theorem State.abort_res0 (s : State) (c : ResultCode) (m : Bool) : (s.abort c m).res0 = s.res0 := rfl
@[simp] theorem State.abort_res1 (s : State) (c : ResultCode) (m : Bool) : (s.abort c m).res1 = s.res1 := rfl
@[simp] theorem State.abort_res2 (s : State) (c : ResultCode) (m : Bool) : (s.abort c m).res2 = s.res2 := rfl
@[simp] theorem State.abort_msgbuf (s : State) (c : ResultCode) (m : Bool) : (s.abort c m).msgbuf = s.msgbuf := rfl
@[simp] theorem State.abort_seq (s : State) (c : ResultCode) (m : Bool) : (s.abort c m).seq = s.seq := rfl
@[simp] theorem State.abort_env (s : State) (c : ResultCode) (m : Bool) : (s.abort c m).env = s.env := rfl
@[simp] theorem State.abort_client (s : State) (c : ResultCode) (m : Bool) : (s.abort c m).client = s.client := rfl
@[simp] theorem State.abort_draws (s : State) (c : ResultCode) (m : Bool) : (s.abort c m).draws = s.draws := rfl

/-! ### `State.fail` -/

@[simp] theorem State.fail_cfg (s : State) (c : ResultCode) (m : Bool) : (s.fail c m).cfg = s.cfg := rfl
@[simp] theorem State.fail_hcsr (s : State) (c : ResultCode) (m : Bool) : (s.fail c m).hcsr = s.hcsr := rfl
@[simp] theorem State.fail_ccsr (s : State) (c : ResultCode) (m : Bool) : (s.fail c m).ccsr = s.ccsr := rfl
@[simp] theorem State.fail_txring (s : State) (c : ResultCode) (m : Bool) : (s.fail c m).txring = s.txring := rfl
@[simp] theorem State.fail_rxring (s : State) (c : ResultCode) (m : Bool) : (s.fail c m).rxring = s.rxring := rfl
@[simp] theorem State.fail_counter (s : State) (c : ResultCode) (m : Bool) : (s.fail c m).counter = s.counter := rfl
@[simp] theorem State.fail_lstate (s : State) (c : ResultCode) (m : Bool) :
    (s.fail c m).lstate = if c = .notReady then .resetting else s.lstate := rfl
@[simp] theorem State.fail_resync (s : State) (c : ResultCode) (m : Bool) :
    (s.fail c m).resync = (s.resync || m || decide (c = .notReady) || decide (c = .protocolError)) := rfl
@[simp] theorem State.fail_stsA (s : State) (c : ResultCode) (m : Bool) : (s.fail c m).stsA = s.stsA := rfl
@[simp] theorem State.fail_stsB (s : State) (c : ResultCode) (m : Bool) : (s.fail c m).stsB = s.stsB := rfl
@[simp] theorem State.fail_dbOut (s : State) (c : ResultCode) (m : Bool) : (s.fail c m).dbOut = s.dbOut := rfl
@[simp] theorem State.fail_dbIn (s : State) (c : ResultCode) (m : Bool) : (s.fail c m).dbIn = s.dbIn := rfl
@[simp] theorem State.fail_comm (s : State) (c : ResultCode) (m : Bool) : (s.fail c m).comm = s.comm := rfl
@[simp] theorem State.fail_refclk (s : State) (c : ResultCode) (m : Bool) : (s.fail c m).refclk = s.refclk := rfl
@[simp] theorem State.fail_outMsg (s : State) (c : ResultCode) (m : Bool) : (s.fail c m).outMsg = s.outMsg := rfl
@[simp] theorem State.fail_inMsg (s : State) (c : ResultCode) (m : Bool) : (s.fail c m).inMsg = s.inMsg := rfl
@[simp] theorem State.fail_trace (s : State) (c : ResultCode) (m : Bool) : (s.fail c m).trace = s.trace := rfl
@[simp] theorem State.fail_cmd (s : State) (c : ResultCode) (m : Bool) : (s.fail c m).cmd = s.cmd := rfl
@[simp] theorem State.fail_arg0 (s : State) (c : ResultCode) (m : Bool) : (s.fail c m).arg0 = s.arg0 := rfl
@[simp] theorem State.fail_arg1 (s : State) (c : ResultCode) (m : Bool) : (s.fail c m).arg1 = s.arg1 := rfl
@[simp] theorem State.fail_result (s : State) (c : ResultCode) (m : Bool) : (s.fail c m).result = c.code := rfl
@[simp] theorem State.fail_res0 (s : State) (c : ResultCode) (m : Bool) : (s.fail c m).res0 = s.res0 := rfl
@[simp] theorem State.fail_res1 (s : State) (c : ResultCode) (m : Bool) : (s.fail c m).res1 = s.res1 := rfl
@[simp] theorem State.fail_res2 (s : State) (c : ResultCode) (m : Bool) : (s.fail c m).res2 = s.res2 := rfl
@[simp] theorem State.fail_msgbuf (s : State) (c : ResultCode) (m : Bool) : (s.fail c m).msgbuf = s.msgbuf := rfl
@[simp] theorem State.fail_seq (s : State) (c : ResultCode) (m : Bool) : (s.fail c m).seq = .idle := rfl
@[simp] theorem State.fail_env (s : State) (c : ResultCode) (m : Bool) : (s.fail c m).env = s.env := rfl
@[simp] theorem State.fail_client (s : State) (c : ResultCode) (m : Bool) : (s.fail c m).client = s.client := rfl
@[simp] theorem State.fail_draws (s : State) (c : ResultCode) (m : Bool) : (s.fail c m).draws = s.draws := rfl

/-! ### `State.recvFail` -/

@[simp] theorem State.recvFail_cfg (s : State) (c : ResultCode) (m : Bool) : (s.recvFail c m).cfg = s.cfg := rfl
@[simp] theorem State.recvFail_hcsr (s : State) (c : ResultCode) (m : Bool) : (s.recvFail c m).hcsr = s.hcsr := rfl
@[simp] theorem State.recvFail_ccsr (s : State) (c : ResultCode) (m : Bool) : (s.recvFail c m).ccsr = s.ccsr := rfl
@[simp] theorem State.recvFail_txring (s : State) (c : ResultCode) (m : Bool) :
    (s.recvFail c m).txring = s.txring := rfl
@[simp] theorem State.recvFail_rxring (s : State) (c : ResultCode) (m : Bool) :
    (s.recvFail c m).rxring = s.rxring := rfl
@[simp] theorem State.recvFail_counter (s : State) (c : ResultCode) (m : Bool) :
    (s.recvFail c m).counter = s.counter := rfl
@[simp] theorem State.recvFail_lstate (s : State) (c : ResultCode) (m : Bool) :
    (s.recvFail c m).lstate = if c = .notReady then .resetting else s.lstate := rfl
@[simp] theorem State.recvFail_resync (s : State) (c : ResultCode) (m : Bool) :
    (s.recvFail c m).resync = (s.resync || m || decide (c = .notReady) || decide (c = .protocolError)) := rfl
@[simp] theorem State.recvFail_stsA (s : State) (c : ResultCode) (m : Bool) : (s.recvFail c m).stsA = s.stsA := rfl
@[simp] theorem State.recvFail_stsB (s : State) (c : ResultCode) (m : Bool) : (s.recvFail c m).stsB = s.stsB := rfl
@[simp] theorem State.recvFail_dbOut (s : State) (c : ResultCode) (m : Bool) : (s.recvFail c m).dbOut = s.dbOut := rfl
@[simp] theorem State.recvFail_dbIn (s : State) (c : ResultCode) (m : Bool) : (s.recvFail c m).dbIn = s.dbIn := rfl
@[simp] theorem State.recvFail_comm (s : State) (c : ResultCode) (m : Bool) : (s.recvFail c m).comm = s.comm := rfl
@[simp] theorem State.recvFail_refclk (s : State) (c : ResultCode) (m : Bool) :
    (s.recvFail c m).refclk = s.refclk := rfl
@[simp] theorem State.recvFail_outMsg (s : State) (c : ResultCode) (m : Bool) :
    (s.recvFail c m).outMsg = s.outMsg := rfl
@[simp] theorem State.recvFail_inMsg (s : State) (c : ResultCode) (m : Bool) : (s.recvFail c m).inMsg = s.inMsg := rfl
@[simp] theorem State.recvFail_trace (s : State) (c : ResultCode) (m : Bool) : (s.recvFail c m).trace = s.trace := rfl
@[simp] theorem State.recvFail_cmd (s : State) (c : ResultCode) (m : Bool) : (s.recvFail c m).cmd = s.cmd := rfl
@[simp] theorem State.recvFail_arg0 (s : State) (c : ResultCode) (m : Bool) : (s.recvFail c m).arg0 = s.arg0 := rfl
@[simp] theorem State.recvFail_arg1 (s : State) (c : ResultCode) (m : Bool) : (s.recvFail c m).arg1 = s.arg1 := rfl
@[simp] theorem State.recvFail_result (s : State) (c : ResultCode) (m : Bool) :
    (s.recvFail c m).result = c.code := rfl
@[simp] theorem State.recvFail_res0 (s : State) (c : ResultCode) (m : Bool) : (s.recvFail c m).res0 = 0 := rfl
@[simp] theorem State.recvFail_res1 (s : State) (c : ResultCode) (m : Bool) : (s.recvFail c m).res1 = s.res1 := rfl
@[simp] theorem State.recvFail_res2 (s : State) (c : ResultCode) (m : Bool) : (s.recvFail c m).res2 = s.res2 := rfl
@[simp] theorem State.recvFail_msgbuf (s : State) (c : ResultCode) (m : Bool) :
    (s.recvFail c m).msgbuf = s.msgbuf := rfl
@[simp] theorem State.recvFail_seq (s : State) (c : ResultCode) (m : Bool) : (s.recvFail c m).seq = .idle := rfl
@[simp] theorem State.recvFail_env (s : State) (c : ResultCode) (m : Bool) : (s.recvFail c m).env = s.env := rfl
@[simp] theorem State.recvFail_client (s : State) (c : ResultCode) (m : Bool) :
    (s.recvFail c m).client = s.client := rfl
@[simp] theorem State.recvFail_draws (s : State) (c : ResultCode) (m : Bool) : (s.recvFail c m).draws = s.draws := rfl

/-! ### `State.recvDone` -/

@[simp] theorem State.recvDone_cfg (s : State) (c : RecvCtx) (hw : Word) : (s.recvDone c hw).cfg = s.cfg := rfl
@[simp] theorem State.recvDone_hcsr (s : State) (c : RecvCtx) (hw : Word) : (s.recvDone c hw).hcsr = s.hcsr := rfl
@[simp] theorem State.recvDone_ccsr (s : State) (c : RecvCtx) (hw : Word) : (s.recvDone c hw).ccsr = s.ccsr := rfl
@[simp] theorem State.recvDone_txring (s : State) (c : RecvCtx) (hw : Word) :
    (s.recvDone c hw).txring = s.txring := rfl
@[simp] theorem State.recvDone_rxring (s : State) (c : RecvCtx) (hw : Word) :
    (s.recvDone c hw).rxring = s.rxring := rfl
@[simp] theorem State.recvDone_counter (s : State) (c : RecvCtx) (hw : Word) :
    (s.recvDone c hw).counter = s.counter := rfl
@[simp] theorem State.recvDone_lstate (s : State) (c : RecvCtx) (hw : Word) :
    (s.recvDone c hw).lstate = s.lstate := rfl
@[simp] theorem State.recvDone_resync (s : State) (c : RecvCtx) (hw : Word) :
    (s.recvDone c hw).resync = s.resync := rfl
@[simp] theorem State.recvDone_stsA (s : State) (c : RecvCtx) (hw : Word) : (s.recvDone c hw).stsA = s.stsA := rfl
@[simp] theorem State.recvDone_stsB (s : State) (c : RecvCtx) (hw : Word) : (s.recvDone c hw).stsB = s.stsB := rfl
@[simp] theorem State.recvDone_dbOut (s : State) (c : RecvCtx) (hw : Word) : (s.recvDone c hw).dbOut = s.dbOut := rfl
@[simp] theorem State.recvDone_dbIn (s : State) (c : RecvCtx) (hw : Word) : (s.recvDone c hw).dbIn = s.dbIn := rfl
@[simp] theorem State.recvDone_comm (s : State) (c : RecvCtx) (hw : Word) : (s.recvDone c hw).comm = s.comm := rfl
@[simp] theorem State.recvDone_refclk (s : State) (c : RecvCtx) (hw : Word) :
    (s.recvDone c hw).refclk = s.refclk := rfl
@[simp] theorem State.recvDone_outMsg (s : State) (c : RecvCtx) (hw : Word) :
    (s.recvDone c hw).outMsg = s.outMsg := rfl
@[simp] theorem State.recvDone_inMsg (s : State) (c : RecvCtx) (hw : Word) : (s.recvDone c hw).inMsg = s.inMsg := rfl
@[simp] theorem State.recvDone_trace (s : State) (c : RecvCtx) (hw : Word) : (s.recvDone c hw).trace = s.trace := rfl
@[simp] theorem State.recvDone_cmd (s : State) (c : RecvCtx) (hw : Word) : (s.recvDone c hw).cmd = s.cmd := rfl
@[simp] theorem State.recvDone_arg0 (s : State) (c : RecvCtx) (hw : Word) : (s.recvDone c hw).arg0 = s.arg0 := rfl
@[simp] theorem State.recvDone_arg1 (s : State) (c : RecvCtx) (hw : Word) : (s.recvDone c hw).arg1 = s.arg1 := rfl
@[simp] theorem State.recvDone_result (s : State) (c : RecvCtx) (hw : Word) :
    (s.recvDone c hw).result = (if c.small then ResultCode.bufferTooSmall else .success).code := rfl
@[simp] theorem State.recvDone_res0 (s : State) (c : RecvCtx) (hw : Word) :
    (s.recvDone c hw).res0 = BitVec.ofNat 32 c.n := rfl
@[simp] theorem State.recvDone_res1 (s : State) (c : RecvCtx) (hw : Word) : (s.recvDone c hw).res1 = hw := rfl
@[simp] theorem State.recvDone_res2 (s : State) (c : RecvCtx) (hw : Word) :
    (s.recvDone c hw).res2 = if c.total < 2 ^ 32 then BitVec.ofNat 32 c.total else Config.unstatedTotal s.draws := rfl
@[simp] theorem State.recvDone_msgbuf (s : State) (c : RecvCtx) (hw : Word) :
    (s.recvDone c hw).msgbuf = s.msgbuf := rfl
@[simp] theorem State.recvDone_seq (s : State) (c : RecvCtx) (hw : Word) : (s.recvDone c hw).seq = .idle := rfl
@[simp] theorem State.recvDone_env (s : State) (c : RecvCtx) (hw : Word) : (s.recvDone c hw).env = s.env := rfl
@[simp] theorem State.recvDone_client (s : State) (c : RecvCtx) (hw : Word) :
    (s.recvDone c hw).client = s.client := rfl
@[simp] theorem State.recvDone_draws (s : State) (c : RecvCtx) (hw : Word) :
    (s.recvDone c hw).draws = if c.total < 2 ^ 32 then s.draws else s.draws + 1 := rfl

/-! ### `State.emit` -/

@[simp] theorem State.emit_cfg (s : State) (e : Event) : (s.emit e).cfg = s.cfg := rfl
@[simp] theorem State.emit_hcsr (s : State) (e : Event) : (s.emit e).hcsr = s.hcsr := rfl
@[simp] theorem State.emit_ccsr (s : State) (e : Event) : (s.emit e).ccsr = s.ccsr := rfl
@[simp] theorem State.emit_txring (s : State) (e : Event) : (s.emit e).txring = s.txring := rfl
@[simp] theorem State.emit_rxring (s : State) (e : Event) : (s.emit e).rxring = s.rxring := rfl
@[simp] theorem State.emit_counter (s : State) (e : Event) : (s.emit e).counter = s.counter := rfl
@[simp] theorem State.emit_lstate (s : State) (e : Event) : (s.emit e).lstate = s.lstate := rfl
@[simp] theorem State.emit_resync (s : State) (e : Event) : (s.emit e).resync = s.resync := rfl
@[simp] theorem State.emit_stsA (s : State) (e : Event) : (s.emit e).stsA = s.stsA := rfl
@[simp] theorem State.emit_stsB (s : State) (e : Event) : (s.emit e).stsB = s.stsB := rfl
@[simp] theorem State.emit_dbOut (s : State) (e : Event) : (s.emit e).dbOut = s.dbOut := rfl
@[simp] theorem State.emit_dbIn (s : State) (e : Event) : (s.emit e).dbIn = s.dbIn := rfl
@[simp] theorem State.emit_comm (s : State) (e : Event) : (s.emit e).comm = s.comm := rfl
@[simp] theorem State.emit_refclk (s : State) (e : Event) : (s.emit e).refclk = s.refclk := rfl
@[simp] theorem State.emit_outMsg (s : State) (e : Event) : (s.emit e).outMsg = s.outMsg := rfl
@[simp] theorem State.emit_inMsg (s : State) (e : Event) : (s.emit e).inMsg = s.inMsg := rfl
@[simp] theorem State.emit_trace (s : State) (e : Event) : (s.emit e).trace = s.trace ++ [e] := rfl
@[simp] theorem State.emit_cmd (s : State) (e : Event) : (s.emit e).cmd = s.cmd := rfl
@[simp] theorem State.emit_arg0 (s : State) (e : Event) : (s.emit e).arg0 = s.arg0 := rfl
@[simp] theorem State.emit_arg1 (s : State) (e : Event) : (s.emit e).arg1 = s.arg1 := rfl
@[simp] theorem State.emit_result (s : State) (e : Event) : (s.emit e).result = s.result := rfl
@[simp] theorem State.emit_res0 (s : State) (e : Event) : (s.emit e).res0 = s.res0 := rfl
@[simp] theorem State.emit_res1 (s : State) (e : Event) : (s.emit e).res1 = s.res1 := rfl
@[simp] theorem State.emit_res2 (s : State) (e : Event) : (s.emit e).res2 = s.res2 := rfl
@[simp] theorem State.emit_msgbuf (s : State) (e : Event) : (s.emit e).msgbuf = s.msgbuf := rfl
@[simp] theorem State.emit_seq (s : State) (e : Event) : (s.emit e).seq = s.seq := rfl
@[simp] theorem State.emit_env (s : State) (e : Event) : (s.emit e).env = s.env := rfl
@[simp] theorem State.emit_client (s : State) (e : Event) : (s.emit e).client = s.client := rfl
@[simp] theorem State.emit_draws (s : State) (e : Event) : (s.emit e).draws = s.draws := rfl

/-! ### `State.emitWindow` -/

@[simp] theorem State.emitWindow_cfg (s : State) (n : Nat) : (s.emitWindow n).cfg = s.cfg := rfl
@[simp] theorem State.emitWindow_hcsr (s : State) (n : Nat) : (s.emitWindow n).hcsr = s.hcsr := rfl
@[simp] theorem State.emitWindow_ccsr (s : State) (n : Nat) : (s.emitWindow n).ccsr = s.ccsr := rfl
@[simp] theorem State.emitWindow_txring (s : State) (n : Nat) : (s.emitWindow n).txring = s.txring := rfl
@[simp] theorem State.emitWindow_rxring (s : State) (n : Nat) : (s.emitWindow n).rxring = s.rxring := rfl
@[simp] theorem State.emitWindow_counter (s : State) (n : Nat) : (s.emitWindow n).counter = s.counter := rfl
@[simp] theorem State.emitWindow_lstate (s : State) (n : Nat) : (s.emitWindow n).lstate = s.lstate := rfl
@[simp] theorem State.emitWindow_resync (s : State) (n : Nat) : (s.emitWindow n).resync = s.resync := rfl
@[simp] theorem State.emitWindow_stsA (s : State) (n : Nat) : (s.emitWindow n).stsA = s.stsA := rfl
@[simp] theorem State.emitWindow_stsB (s : State) (n : Nat) : (s.emitWindow n).stsB = s.stsB := rfl
@[simp] theorem State.emitWindow_dbOut (s : State) (n : Nat) : (s.emitWindow n).dbOut = s.dbOut := rfl
@[simp] theorem State.emitWindow_dbIn (s : State) (n : Nat) : (s.emitWindow n).dbIn = s.dbIn := rfl
@[simp] theorem State.emitWindow_comm (s : State) (n : Nat) : (s.emitWindow n).comm = s.comm := rfl
@[simp] theorem State.emitWindow_refclk (s : State) (n : Nat) : (s.emitWindow n).refclk = s.refclk := rfl
@[simp] theorem State.emitWindow_outMsg (s : State) (n : Nat) : (s.emitWindow n).outMsg = s.outMsg := rfl
@[simp] theorem State.emitWindow_inMsg (s : State) (n : Nat) : (s.emitWindow n).inMsg = s.inMsg := rfl
@[simp] theorem State.emitWindow_trace (s : State) (n : Nat) :
    (s.emitWindow n).trace = s.trace ++ [.writeWin (memBytes s.outMsg n)] := rfl
@[simp] theorem State.emitWindow_cmd (s : State) (n : Nat) : (s.emitWindow n).cmd = s.cmd := rfl
@[simp] theorem State.emitWindow_arg0 (s : State) (n : Nat) : (s.emitWindow n).arg0 = s.arg0 := rfl
@[simp] theorem State.emitWindow_arg1 (s : State) (n : Nat) : (s.emitWindow n).arg1 = s.arg1 := rfl
@[simp] theorem State.emitWindow_result (s : State) (n : Nat) : (s.emitWindow n).result = s.result := rfl
@[simp] theorem State.emitWindow_res0 (s : State) (n : Nat) : (s.emitWindow n).res0 = s.res0 := rfl
@[simp] theorem State.emitWindow_res1 (s : State) (n : Nat) : (s.emitWindow n).res1 = s.res1 := rfl
@[simp] theorem State.emitWindow_res2 (s : State) (n : Nat) : (s.emitWindow n).res2 = s.res2 := rfl
@[simp] theorem State.emitWindow_msgbuf (s : State) (n : Nat) : (s.emitWindow n).msgbuf = s.msgbuf := rfl
@[simp] theorem State.emitWindow_seq (s : State) (n : Nat) : (s.emitWindow n).seq = s.seq := rfl
@[simp] theorem State.emitWindow_env (s : State) (n : Nat) : (s.emitWindow n).env = s.env := rfl
@[simp] theorem State.emitWindow_client (s : State) (n : Nat) : (s.emitWindow n).client = s.client := rfl
@[simp] theorem State.emitWindow_draws (s : State) (n : Nat) : (s.emitWindow n).draws = s.draws := rfl

/-! ### `State.writeHcsr` -/

@[simp] theorem State.writeHcsr_cfg (s : State) (a b c : Option Bool) : (s.writeHcsr a b c).cfg = s.cfg := rfl
@[simp] theorem State.writeHcsr_hcsr (s : State) (a b c : Option Bool) :
    (s.writeHcsr a b c).hcsr = { s.hcsr with rst := a.getD s.hcsr.rst, rdy := b.getD s.hcsr.rdy, ig := c.getD s.hcsr.ig } := rfl
@[simp] theorem State.writeHcsr_ccsr (s : State) (a b c : Option Bool) : (s.writeHcsr a b c).ccsr = s.ccsr := rfl
@[simp] theorem State.writeHcsr_txring (s : State) (a b c : Option Bool) :
    (s.writeHcsr a b c).txring = s.txring := rfl
@[simp] theorem State.writeHcsr_rxring (s : State) (a b c : Option Bool) :
    (s.writeHcsr a b c).rxring = s.rxring := rfl
@[simp] theorem State.writeHcsr_counter (s : State) (a b c : Option Bool) :
    (s.writeHcsr a b c).counter = s.counter := rfl
@[simp] theorem State.writeHcsr_lstate (s : State) (a b c : Option Bool) :
    (s.writeHcsr a b c).lstate = s.lstate := rfl
@[simp] theorem State.writeHcsr_resync (s : State) (a b c : Option Bool) :
    (s.writeHcsr a b c).resync = s.resync := rfl
@[simp] theorem State.writeHcsr_stsA (s : State) (a b c : Option Bool) : (s.writeHcsr a b c).stsA = s.stsA := rfl
@[simp] theorem State.writeHcsr_stsB (s : State) (a b c : Option Bool) : (s.writeHcsr a b c).stsB = s.stsB := rfl
@[simp] theorem State.writeHcsr_dbOut (s : State) (a b c : Option Bool) : (s.writeHcsr a b c).dbOut = s.dbOut := rfl
@[simp] theorem State.writeHcsr_dbIn (s : State) (a b c : Option Bool) : (s.writeHcsr a b c).dbIn = s.dbIn := rfl
@[simp] theorem State.writeHcsr_comm (s : State) (a b c : Option Bool) : (s.writeHcsr a b c).comm = s.comm := rfl
@[simp] theorem State.writeHcsr_refclk (s : State) (a b c : Option Bool) :
    (s.writeHcsr a b c).refclk = s.refclk := rfl
@[simp] theorem State.writeHcsr_outMsg (s : State) (a b c : Option Bool) :
    (s.writeHcsr a b c).outMsg = s.outMsg := rfl
@[simp] theorem State.writeHcsr_inMsg (s : State) (a b c : Option Bool) : (s.writeHcsr a b c).inMsg = s.inMsg := rfl
@[simp] theorem State.writeHcsr_trace (s : State) (a b c : Option Bool) :
    (s.writeHcsr a b c).trace = s.trace ++ [.writeReg .hcsr (s.writeHcsr a b c).hcsr.toWord] := rfl
@[simp] theorem State.writeHcsr_cmd (s : State) (a b c : Option Bool) : (s.writeHcsr a b c).cmd = s.cmd := rfl
@[simp] theorem State.writeHcsr_arg0 (s : State) (a b c : Option Bool) : (s.writeHcsr a b c).arg0 = s.arg0 := rfl
@[simp] theorem State.writeHcsr_arg1 (s : State) (a b c : Option Bool) : (s.writeHcsr a b c).arg1 = s.arg1 := rfl
@[simp] theorem State.writeHcsr_result (s : State) (a b c : Option Bool) :
    (s.writeHcsr a b c).result = s.result := rfl
@[simp] theorem State.writeHcsr_res0 (s : State) (a b c : Option Bool) : (s.writeHcsr a b c).res0 = s.res0 := rfl
@[simp] theorem State.writeHcsr_res1 (s : State) (a b c : Option Bool) : (s.writeHcsr a b c).res1 = s.res1 := rfl
@[simp] theorem State.writeHcsr_res2 (s : State) (a b c : Option Bool) : (s.writeHcsr a b c).res2 = s.res2 := rfl
@[simp] theorem State.writeHcsr_msgbuf (s : State) (a b c : Option Bool) :
    (s.writeHcsr a b c).msgbuf = s.msgbuf := rfl
@[simp] theorem State.writeHcsr_seq (s : State) (a b c : Option Bool) : (s.writeHcsr a b c).seq = s.seq := rfl
@[simp] theorem State.writeHcsr_env (s : State) (a b c : Option Bool) : (s.writeHcsr a b c).env = s.env := rfl
@[simp] theorem State.writeHcsr_client (s : State) (a b c : Option Bool) :
    (s.writeHcsr a b c).client = s.client := rfl
@[simp] theorem State.writeHcsr_draws (s : State) (a b c : Option Bool) : (s.writeHcsr a b c).draws = s.draws := rfl

/-! ### `State.writeDbOut` -/

@[simp] theorem State.writeDbOut_cfg (s : State) (d : Doorbell) : (s.writeDbOut d).cfg = s.cfg := rfl
@[simp] theorem State.writeDbOut_hcsr (s : State) (d : Doorbell) : (s.writeDbOut d).hcsr = s.hcsr := rfl
@[simp] theorem State.writeDbOut_ccsr (s : State) (d : Doorbell) : (s.writeDbOut d).ccsr = s.ccsr := rfl
@[simp] theorem State.writeDbOut_txring (s : State) (d : Doorbell) : (s.writeDbOut d).txring = s.txring := rfl
@[simp] theorem State.writeDbOut_rxring (s : State) (d : Doorbell) : (s.writeDbOut d).rxring = s.rxring := rfl
@[simp] theorem State.writeDbOut_counter (s : State) (d : Doorbell) : (s.writeDbOut d).counter = s.counter := rfl
@[simp] theorem State.writeDbOut_lstate (s : State) (d : Doorbell) : (s.writeDbOut d).lstate = s.lstate := rfl
@[simp] theorem State.writeDbOut_resync (s : State) (d : Doorbell) : (s.writeDbOut d).resync = s.resync := rfl
@[simp] theorem State.writeDbOut_stsA (s : State) (d : Doorbell) : (s.writeDbOut d).stsA = s.stsA := rfl
@[simp] theorem State.writeDbOut_stsB (s : State) (d : Doorbell) : (s.writeDbOut d).stsB = s.stsB := rfl
@[simp] theorem State.writeDbOut_dbOut (s : State) (d : Doorbell) : (s.writeDbOut d).dbOut = d := rfl
@[simp] theorem State.writeDbOut_dbIn (s : State) (d : Doorbell) : (s.writeDbOut d).dbIn = s.dbIn := rfl
@[simp] theorem State.writeDbOut_comm (s : State) (d : Doorbell) : (s.writeDbOut d).comm = s.comm := rfl
@[simp] theorem State.writeDbOut_refclk (s : State) (d : Doorbell) : (s.writeDbOut d).refclk = s.refclk := rfl
@[simp] theorem State.writeDbOut_outMsg (s : State) (d : Doorbell) : (s.writeDbOut d).outMsg = s.outMsg := rfl
@[simp] theorem State.writeDbOut_inMsg (s : State) (d : Doorbell) : (s.writeDbOut d).inMsg = s.inMsg := rfl
@[simp] theorem State.writeDbOut_trace (s : State) (d : Doorbell) :
    (s.writeDbOut d).trace = s.trace ++ [.writeReg .dbOut d.toWord] := rfl
@[simp] theorem State.writeDbOut_cmd (s : State) (d : Doorbell) : (s.writeDbOut d).cmd = s.cmd := rfl
@[simp] theorem State.writeDbOut_arg0 (s : State) (d : Doorbell) : (s.writeDbOut d).arg0 = s.arg0 := rfl
@[simp] theorem State.writeDbOut_arg1 (s : State) (d : Doorbell) : (s.writeDbOut d).arg1 = s.arg1 := rfl
@[simp] theorem State.writeDbOut_result (s : State) (d : Doorbell) : (s.writeDbOut d).result = s.result := rfl
@[simp] theorem State.writeDbOut_res0 (s : State) (d : Doorbell) : (s.writeDbOut d).res0 = s.res0 := rfl
@[simp] theorem State.writeDbOut_res1 (s : State) (d : Doorbell) : (s.writeDbOut d).res1 = s.res1 := rfl
@[simp] theorem State.writeDbOut_res2 (s : State) (d : Doorbell) : (s.writeDbOut d).res2 = s.res2 := rfl
@[simp] theorem State.writeDbOut_msgbuf (s : State) (d : Doorbell) : (s.writeDbOut d).msgbuf = s.msgbuf := rfl
@[simp] theorem State.writeDbOut_seq (s : State) (d : Doorbell) : (s.writeDbOut d).seq = s.seq := rfl
@[simp] theorem State.writeDbOut_env (s : State) (d : Doorbell) : (s.writeDbOut d).env = s.env := rfl
@[simp] theorem State.writeDbOut_client (s : State) (d : Doorbell) : (s.writeDbOut d).client = s.client := rfl
@[simp] theorem State.writeDbOut_draws (s : State) (d : Doorbell) : (s.writeDbOut d).draws = s.draws := rfl

/-! ### `State.clearDbIn` -/

@[simp] theorem State.clearDbIn_cfg (s : State) : (s.clearDbIn).cfg = s.cfg := rfl
@[simp] theorem State.clearDbIn_hcsr (s : State) : (s.clearDbIn).hcsr = s.hcsr := rfl
@[simp] theorem State.clearDbIn_ccsr (s : State) : (s.clearDbIn).ccsr = s.ccsr := rfl
@[simp] theorem State.clearDbIn_txring (s : State) : (s.clearDbIn).txring = s.txring := rfl
@[simp] theorem State.clearDbIn_rxring (s : State) : (s.clearDbIn).rxring = s.rxring := rfl
@[simp] theorem State.clearDbIn_counter (s : State) : (s.clearDbIn).counter = s.counter := rfl
@[simp] theorem State.clearDbIn_lstate (s : State) : (s.clearDbIn).lstate = s.lstate := rfl
@[simp] theorem State.clearDbIn_resync (s : State) : (s.clearDbIn).resync = s.resync := rfl
@[simp] theorem State.clearDbIn_stsA (s : State) : (s.clearDbIn).stsA = s.stsA := rfl
@[simp] theorem State.clearDbIn_stsB (s : State) : (s.clearDbIn).stsB = s.stsB := rfl
@[simp] theorem State.clearDbIn_dbOut (s : State) : (s.clearDbIn).dbOut = s.dbOut := rfl
@[simp] theorem State.clearDbIn_dbIn (s : State) : (s.clearDbIn).dbIn = Doorbell.zero := rfl
@[simp] theorem State.clearDbIn_comm (s : State) : (s.clearDbIn).comm = s.comm := rfl
@[simp] theorem State.clearDbIn_refclk (s : State) : (s.clearDbIn).refclk = s.refclk := rfl
@[simp] theorem State.clearDbIn_outMsg (s : State) : (s.clearDbIn).outMsg = s.outMsg := rfl
@[simp] theorem State.clearDbIn_inMsg (s : State) : (s.clearDbIn).inMsg = s.inMsg := rfl
@[simp] theorem State.clearDbIn_trace (s : State) :
    (s.clearDbIn).trace = s.trace ++ [.writeReg .dbIn Doorbell.zero.toWord] := rfl
@[simp] theorem State.clearDbIn_cmd (s : State) : (s.clearDbIn).cmd = s.cmd := rfl
@[simp] theorem State.clearDbIn_arg0 (s : State) : (s.clearDbIn).arg0 = s.arg0 := rfl
@[simp] theorem State.clearDbIn_arg1 (s : State) : (s.clearDbIn).arg1 = s.arg1 := rfl
@[simp] theorem State.clearDbIn_result (s : State) : (s.clearDbIn).result = s.result := rfl
@[simp] theorem State.clearDbIn_res0 (s : State) : (s.clearDbIn).res0 = s.res0 := rfl
@[simp] theorem State.clearDbIn_res1 (s : State) : (s.clearDbIn).res1 = s.res1 := rfl
@[simp] theorem State.clearDbIn_res2 (s : State) : (s.clearDbIn).res2 = s.res2 := rfl
@[simp] theorem State.clearDbIn_msgbuf (s : State) : (s.clearDbIn).msgbuf = s.msgbuf := rfl
@[simp] theorem State.clearDbIn_seq (s : State) : (s.clearDbIn).seq = s.seq := rfl
@[simp] theorem State.clearDbIn_env (s : State) : (s.clearDbIn).env = s.env := rfl
@[simp] theorem State.clearDbIn_client (s : State) : (s.clearDbIn).client = s.client := rfl
@[simp] theorem State.clearDbIn_draws (s : State) : (s.clearDbIn).draws = s.draws := rfl

/-! ### `State.setComm` -/

@[simp] theorem State.setComm_cfg (s : State) (a b c : Bool) : (s.setComm a b c).cfg = s.cfg := rfl
@[simp] theorem State.setComm_hcsr (s : State) (a b c : Bool) : (s.setComm a b c).hcsr = s.hcsr := rfl
@[simp] theorem State.setComm_ccsr (s : State) (a b c : Bool) : (s.setComm a b c).ccsr = s.ccsr := rfl
@[simp] theorem State.setComm_txring (s : State) (a b c : Bool) : (s.setComm a b c).txring = s.txring := rfl
@[simp] theorem State.setComm_rxring (s : State) (a b c : Bool) : (s.setComm a b c).rxring = s.rxring := rfl
@[simp] theorem State.setComm_counter (s : State) (a b c : Bool) : (s.setComm a b c).counter = s.counter := rfl
@[simp] theorem State.setComm_lstate (s : State) (a b c : Bool) : (s.setComm a b c).lstate = s.lstate := rfl
@[simp] theorem State.setComm_resync (s : State) (a b c : Bool) : (s.setComm a b c).resync = s.resync := rfl
@[simp] theorem State.setComm_stsA (s : State) (a b c : Bool) : (s.setComm a b c).stsA = s.stsA := rfl
@[simp] theorem State.setComm_stsB (s : State) (a b c : Bool) : (s.setComm a b c).stsB = s.stsB := rfl
@[simp] theorem State.setComm_dbOut (s : State) (a b c : Bool) : (s.setComm a b c).dbOut = s.dbOut := rfl
@[simp] theorem State.setComm_dbIn (s : State) (a b c : Bool) : (s.setComm a b c).dbIn = s.dbIn := rfl
@[simp] theorem State.setComm_comm (s : State) (a b c : Bool) :
    (s.setComm a b c).comm = { hostReady := s.comm.hostReady || a, drvLoaded := s.comm.drvLoaded || b, drvReady := s.comm.drvReady || c } := rfl
@[simp] theorem State.setComm_refclk (s : State) (a b c : Bool) : (s.setComm a b c).refclk = s.refclk := rfl
@[simp] theorem State.setComm_outMsg (s : State) (a b c : Bool) : (s.setComm a b c).outMsg = s.outMsg := rfl
@[simp] theorem State.setComm_inMsg (s : State) (a b c : Bool) : (s.setComm a b c).inMsg = s.inMsg := rfl
@[simp] theorem State.setComm_trace (s : State) (a b c : Bool) :
    (s.setComm a b c).trace = s.trace ++ [.writeReg .comm (s.setComm a b c).comm.toWord] := rfl
@[simp] theorem State.setComm_cmd (s : State) (a b c : Bool) : (s.setComm a b c).cmd = s.cmd := rfl
@[simp] theorem State.setComm_arg0 (s : State) (a b c : Bool) : (s.setComm a b c).arg0 = s.arg0 := rfl
@[simp] theorem State.setComm_arg1 (s : State) (a b c : Bool) : (s.setComm a b c).arg1 = s.arg1 := rfl
@[simp] theorem State.setComm_result (s : State) (a b c : Bool) : (s.setComm a b c).result = s.result := rfl
@[simp] theorem State.setComm_res0 (s : State) (a b c : Bool) : (s.setComm a b c).res0 = s.res0 := rfl
@[simp] theorem State.setComm_res1 (s : State) (a b c : Bool) : (s.setComm a b c).res1 = s.res1 := rfl
@[simp] theorem State.setComm_res2 (s : State) (a b c : Bool) : (s.setComm a b c).res2 = s.res2 := rfl
@[simp] theorem State.setComm_msgbuf (s : State) (a b c : Bool) : (s.setComm a b c).msgbuf = s.msgbuf := rfl
@[simp] theorem State.setComm_seq (s : State) (a b c : Bool) : (s.setComm a b c).seq = s.seq := rfl
@[simp] theorem State.setComm_env (s : State) (a b c : Bool) : (s.setComm a b c).env = s.env := rfl
@[simp] theorem State.setComm_client (s : State) (a b c : Bool) : (s.setComm a b c).client = s.client := rfl
@[simp] theorem State.setComm_draws (s : State) (a b c : Bool) : (s.setComm a b c).draws = s.draws := rfl

/-! ### `State.writeRefclk` -/

@[simp] theorem State.writeRefclk_cfg (s : State) (w : Word) : (s.writeRefclk w).cfg = s.cfg := rfl
@[simp] theorem State.writeRefclk_hcsr (s : State) (w : Word) : (s.writeRefclk w).hcsr = s.hcsr := rfl
@[simp] theorem State.writeRefclk_ccsr (s : State) (w : Word) : (s.writeRefclk w).ccsr = s.ccsr := rfl
@[simp] theorem State.writeRefclk_txring (s : State) (w : Word) : (s.writeRefclk w).txring = s.txring := rfl
@[simp] theorem State.writeRefclk_rxring (s : State) (w : Word) : (s.writeRefclk w).rxring = s.rxring := rfl
@[simp] theorem State.writeRefclk_counter (s : State) (w : Word) : (s.writeRefclk w).counter = s.counter := rfl
@[simp] theorem State.writeRefclk_lstate (s : State) (w : Word) : (s.writeRefclk w).lstate = s.lstate := rfl
@[simp] theorem State.writeRefclk_resync (s : State) (w : Word) : (s.writeRefclk w).resync = s.resync := rfl
@[simp] theorem State.writeRefclk_stsA (s : State) (w : Word) : (s.writeRefclk w).stsA = s.stsA := rfl
@[simp] theorem State.writeRefclk_stsB (s : State) (w : Word) : (s.writeRefclk w).stsB = s.stsB := rfl
@[simp] theorem State.writeRefclk_dbOut (s : State) (w : Word) : (s.writeRefclk w).dbOut = s.dbOut := rfl
@[simp] theorem State.writeRefclk_dbIn (s : State) (w : Word) : (s.writeRefclk w).dbIn = s.dbIn := rfl
@[simp] theorem State.writeRefclk_comm (s : State) (w : Word) : (s.writeRefclk w).comm = s.comm := rfl
@[simp] theorem State.writeRefclk_refclk (s : State) (w : Word) : (s.writeRefclk w).refclk = w := rfl
@[simp] theorem State.writeRefclk_outMsg (s : State) (w : Word) : (s.writeRefclk w).outMsg = s.outMsg := rfl
@[simp] theorem State.writeRefclk_inMsg (s : State) (w : Word) : (s.writeRefclk w).inMsg = s.inMsg := rfl
@[simp] theorem State.writeRefclk_trace (s : State) (w : Word) :
    (s.writeRefclk w).trace = s.trace ++ [.writeReg .refclk w] := rfl
@[simp] theorem State.writeRefclk_cmd (s : State) (w : Word) : (s.writeRefclk w).cmd = s.cmd := rfl
@[simp] theorem State.writeRefclk_arg0 (s : State) (w : Word) : (s.writeRefclk w).arg0 = s.arg0 := rfl
@[simp] theorem State.writeRefclk_arg1 (s : State) (w : Word) : (s.writeRefclk w).arg1 = s.arg1 := rfl
@[simp] theorem State.writeRefclk_result (s : State) (w : Word) : (s.writeRefclk w).result = s.result := rfl
@[simp] theorem State.writeRefclk_res0 (s : State) (w : Word) : (s.writeRefclk w).res0 = s.res0 := rfl
@[simp] theorem State.writeRefclk_res1 (s : State) (w : Word) : (s.writeRefclk w).res1 = s.res1 := rfl
@[simp] theorem State.writeRefclk_res2 (s : State) (w : Word) : (s.writeRefclk w).res2 = s.res2 := rfl
@[simp] theorem State.writeRefclk_msgbuf (s : State) (w : Word) : (s.writeRefclk w).msgbuf = s.msgbuf := rfl
@[simp] theorem State.writeRefclk_seq (s : State) (w : Word) : (s.writeRefclk w).seq = s.seq := rfl
@[simp] theorem State.writeRefclk_env (s : State) (w : Word) : (s.writeRefclk w).env = s.env := rfl
@[simp] theorem State.writeRefclk_client (s : State) (w : Word) : (s.writeRefclk w).client = s.client := rfl
@[simp] theorem State.writeRefclk_draws (s : State) (w : Word) : (s.writeRefclk w).draws = s.draws := rfl

/-! ### `State.txPush` -/

@[simp] theorem State.txPush_cfg (s : State) (w : Word) : (s.txPush w).cfg = s.cfg := rfl
@[simp] theorem State.txPush_hcsr (s : State) (w : Word) :
    (s.txPush w).hcsr = { s.hcsr with wp := s.hcsr.wp + 1 } := rfl
@[simp] theorem State.txPush_ccsr (s : State) (w : Word) : (s.txPush w).ccsr = s.ccsr := rfl
@[simp] theorem State.txPush_txring (s : State) (w : Word) : (s.txPush w).txring = s.txring ++ [w] := rfl
@[simp] theorem State.txPush_rxring (s : State) (w : Word) : (s.txPush w).rxring = s.rxring := rfl
@[simp] theorem State.txPush_counter (s : State) (w : Word) : (s.txPush w).counter = s.counter := rfl
@[simp] theorem State.txPush_lstate (s : State) (w : Word) : (s.txPush w).lstate = s.lstate := rfl
@[simp] theorem State.txPush_resync (s : State) (w : Word) : (s.txPush w).resync = s.resync := rfl
@[simp] theorem State.txPush_stsA (s : State) (w : Word) : (s.txPush w).stsA = s.stsA := rfl
@[simp] theorem State.txPush_stsB (s : State) (w : Word) : (s.txPush w).stsB = s.stsB := rfl
@[simp] theorem State.txPush_dbOut (s : State) (w : Word) : (s.txPush w).dbOut = s.dbOut := rfl
@[simp] theorem State.txPush_dbIn (s : State) (w : Word) : (s.txPush w).dbIn = s.dbIn := rfl
@[simp] theorem State.txPush_comm (s : State) (w : Word) : (s.txPush w).comm = s.comm := rfl
@[simp] theorem State.txPush_refclk (s : State) (w : Word) : (s.txPush w).refclk = s.refclk := rfl
@[simp] theorem State.txPush_outMsg (s : State) (w : Word) : (s.txPush w).outMsg = s.outMsg := rfl
@[simp] theorem State.txPush_inMsg (s : State) (w : Word) : (s.txPush w).inMsg = s.inMsg := rfl
@[simp] theorem State.txPush_trace (s : State) (w : Word) : (s.txPush w).trace = s.trace ++ [.push w] := rfl
@[simp] theorem State.txPush_cmd (s : State) (w : Word) : (s.txPush w).cmd = s.cmd := rfl
@[simp] theorem State.txPush_arg0 (s : State) (w : Word) : (s.txPush w).arg0 = s.arg0 := rfl
@[simp] theorem State.txPush_arg1 (s : State) (w : Word) : (s.txPush w).arg1 = s.arg1 := rfl
@[simp] theorem State.txPush_result (s : State) (w : Word) : (s.txPush w).result = s.result := rfl
@[simp] theorem State.txPush_res0 (s : State) (w : Word) : (s.txPush w).res0 = s.res0 := rfl
@[simp] theorem State.txPush_res1 (s : State) (w : Word) : (s.txPush w).res1 = s.res1 := rfl
@[simp] theorem State.txPush_res2 (s : State) (w : Word) : (s.txPush w).res2 = s.res2 := rfl
@[simp] theorem State.txPush_msgbuf (s : State) (w : Word) : (s.txPush w).msgbuf = s.msgbuf := rfl
@[simp] theorem State.txPush_seq (s : State) (w : Word) : (s.txPush w).seq = s.seq := rfl
@[simp] theorem State.txPush_env (s : State) (w : Word) : (s.txPush w).env = s.env := rfl
@[simp] theorem State.txPush_client (s : State) (w : Word) : (s.txPush w).client = s.client := rfl
@[simp] theorem State.txPush_draws (s : State) (w : Word) : (s.txPush w).draws = s.draws := rfl

/-! ### `State.rxPop` -/

@[simp] theorem State.rxPop_cfg (s : State) : (s.rxPop).cfg = s.cfg := rfl
@[simp] theorem State.rxPop_hcsr (s : State) : (s.rxPop).hcsr = s.hcsr := rfl
@[simp] theorem State.rxPop_ccsr (s : State) : (s.rxPop).ccsr = { s.ccsr with rp := s.ccsr.rp + 1 } := rfl
@[simp] theorem State.rxPop_txring (s : State) : (s.rxPop).txring = s.txring := rfl
@[simp] theorem State.rxPop_rxring (s : State) : (s.rxPop).rxring = s.rxring.tail := rfl
@[simp] theorem State.rxPop_counter (s : State) : (s.rxPop).counter = s.counter := rfl
@[simp] theorem State.rxPop_lstate (s : State) : (s.rxPop).lstate = s.lstate := rfl
@[simp] theorem State.rxPop_resync (s : State) : (s.rxPop).resync = s.resync := rfl
@[simp] theorem State.rxPop_stsA (s : State) : (s.rxPop).stsA = s.stsA := rfl
@[simp] theorem State.rxPop_stsB (s : State) : (s.rxPop).stsB = s.stsB := rfl
@[simp] theorem State.rxPop_dbOut (s : State) : (s.rxPop).dbOut = s.dbOut := rfl
@[simp] theorem State.rxPop_dbIn (s : State) : (s.rxPop).dbIn = s.dbIn := rfl
@[simp] theorem State.rxPop_comm (s : State) : (s.rxPop).comm = s.comm := rfl
@[simp] theorem State.rxPop_refclk (s : State) : (s.rxPop).refclk = s.refclk := rfl
@[simp] theorem State.rxPop_outMsg (s : State) : (s.rxPop).outMsg = s.outMsg := rfl
@[simp] theorem State.rxPop_inMsg (s : State) : (s.rxPop).inMsg = s.inMsg := rfl
@[simp] theorem State.rxPop_trace (s : State) : (s.rxPop).trace = s.trace ++ [.pop s.rxFront] := rfl
@[simp] theorem State.rxPop_cmd (s : State) : (s.rxPop).cmd = s.cmd := rfl
@[simp] theorem State.rxPop_arg0 (s : State) : (s.rxPop).arg0 = s.arg0 := rfl
@[simp] theorem State.rxPop_arg1 (s : State) : (s.rxPop).arg1 = s.arg1 := rfl
@[simp] theorem State.rxPop_result (s : State) : (s.rxPop).result = s.result := rfl
@[simp] theorem State.rxPop_res0 (s : State) : (s.rxPop).res0 = s.res0 := rfl
@[simp] theorem State.rxPop_res1 (s : State) : (s.rxPop).res1 = s.res1 := rfl
@[simp] theorem State.rxPop_res2 (s : State) : (s.rxPop).res2 = s.res2 := rfl
@[simp] theorem State.rxPop_msgbuf (s : State) : (s.rxPop).msgbuf = s.msgbuf := rfl
@[simp] theorem State.rxPop_seq (s : State) : (s.rxPop).seq = s.seq := rfl
@[simp] theorem State.rxPop_env (s : State) : (s.rxPop).env = s.env := rfl
@[simp] theorem State.rxPop_client (s : State) : (s.rxPop).client = s.client := rfl
@[simp] theorem State.rxPop_draws (s : State) :
    (s.rxPop).draws = if s.rxring.isEmpty then s.draws + 1 else s.draws := rfl

/-! ### `State.msgWrite` -/

@[simp] theorem State.msgWrite_cfg (s : State) (i : Nat) (b : Byte) : (s.msgWrite i b).cfg = s.cfg := rfl
@[simp] theorem State.msgWrite_hcsr (s : State) (i : Nat) (b : Byte) : (s.msgWrite i b).hcsr = s.hcsr := rfl
@[simp] theorem State.msgWrite_ccsr (s : State) (i : Nat) (b : Byte) : (s.msgWrite i b).ccsr = s.ccsr := rfl
@[simp] theorem State.msgWrite_txring (s : State) (i : Nat) (b : Byte) : (s.msgWrite i b).txring = s.txring := rfl
@[simp] theorem State.msgWrite_rxring (s : State) (i : Nat) (b : Byte) : (s.msgWrite i b).rxring = s.rxring := rfl
@[simp] theorem State.msgWrite_counter (s : State) (i : Nat) (b : Byte) : (s.msgWrite i b).counter = s.counter := rfl
@[simp] theorem State.msgWrite_lstate (s : State) (i : Nat) (b : Byte) : (s.msgWrite i b).lstate = s.lstate := rfl
@[simp] theorem State.msgWrite_resync (s : State) (i : Nat) (b : Byte) : (s.msgWrite i b).resync = s.resync := rfl
@[simp] theorem State.msgWrite_stsA (s : State) (i : Nat) (b : Byte) : (s.msgWrite i b).stsA = s.stsA := rfl
@[simp] theorem State.msgWrite_stsB (s : State) (i : Nat) (b : Byte) : (s.msgWrite i b).stsB = s.stsB := rfl
@[simp] theorem State.msgWrite_dbOut (s : State) (i : Nat) (b : Byte) : (s.msgWrite i b).dbOut = s.dbOut := rfl
@[simp] theorem State.msgWrite_dbIn (s : State) (i : Nat) (b : Byte) : (s.msgWrite i b).dbIn = s.dbIn := rfl
@[simp] theorem State.msgWrite_comm (s : State) (i : Nat) (b : Byte) : (s.msgWrite i b).comm = s.comm := rfl
@[simp] theorem State.msgWrite_refclk (s : State) (i : Nat) (b : Byte) : (s.msgWrite i b).refclk = s.refclk := rfl
@[simp] theorem State.msgWrite_outMsg (s : State) (i : Nat) (b : Byte) : (s.msgWrite i b).outMsg = s.outMsg := rfl
@[simp] theorem State.msgWrite_inMsg (s : State) (i : Nat) (b : Byte) : (s.msgWrite i b).inMsg = s.inMsg := rfl
@[simp] theorem State.msgWrite_trace (s : State) (i : Nat) (b : Byte) : (s.msgWrite i b).trace = s.trace := rfl
@[simp] theorem State.msgWrite_cmd (s : State) (i : Nat) (b : Byte) : (s.msgWrite i b).cmd = s.cmd := rfl
@[simp] theorem State.msgWrite_arg0 (s : State) (i : Nat) (b : Byte) : (s.msgWrite i b).arg0 = s.arg0 := rfl
@[simp] theorem State.msgWrite_arg1 (s : State) (i : Nat) (b : Byte) : (s.msgWrite i b).arg1 = s.arg1 := rfl
@[simp] theorem State.msgWrite_result (s : State) (i : Nat) (b : Byte) : (s.msgWrite i b).result = s.result := rfl
@[simp] theorem State.msgWrite_res0 (s : State) (i : Nat) (b : Byte) : (s.msgWrite i b).res0 = s.res0 := rfl
@[simp] theorem State.msgWrite_res1 (s : State) (i : Nat) (b : Byte) : (s.msgWrite i b).res1 = s.res1 := rfl
@[simp] theorem State.msgWrite_res2 (s : State) (i : Nat) (b : Byte) : (s.msgWrite i b).res2 = s.res2 := rfl
@[simp] theorem State.msgWrite_msgbuf (s : State) (i : Nat) (b : Byte) :
    (s.msgWrite i b).msgbuf = memWrite s.msgbuf i b := rfl
@[simp] theorem State.msgWrite_seq (s : State) (i : Nat) (b : Byte) : (s.msgWrite i b).seq = s.seq := rfl
@[simp] theorem State.msgWrite_env (s : State) (i : Nat) (b : Byte) : (s.msgWrite i b).env = s.env := rfl
@[simp] theorem State.msgWrite_client (s : State) (i : Nat) (b : Byte) : (s.msgWrite i b).client = s.client := rfl
@[simp] theorem State.msgWrite_draws (s : State) (i : Nat) (b : Byte) : (s.msgWrite i b).draws = s.draws := rfl

/-! ### `State.tick` -/

@[simp] theorem State.tick_cfg (s : State) (n : Nat) : (s.tick n).cfg = s.cfg := rfl
@[simp] theorem State.tick_hcsr (s : State) (n : Nat) : (s.tick n).hcsr = s.hcsr := rfl
@[simp] theorem State.tick_ccsr (s : State) (n : Nat) : (s.tick n).ccsr = s.ccsr := rfl
@[simp] theorem State.tick_txring (s : State) (n : Nat) : (s.tick n).txring = s.txring := rfl
@[simp] theorem State.tick_rxring (s : State) (n : Nat) : (s.tick n).rxring = s.rxring := rfl
@[simp] theorem State.tick_counter (s : State) (n : Nat) :
    (s.tick n).counter = BitVec.ofNat 32 ((s.counter.toNat + n) % 2 ^ s.cfg.cw) := rfl
@[simp] theorem State.tick_lstate (s : State) (n : Nat) : (s.tick n).lstate = s.lstate := rfl
@[simp] theorem State.tick_resync (s : State) (n : Nat) : (s.tick n).resync = s.resync := rfl
@[simp] theorem State.tick_stsA (s : State) (n : Nat) : (s.tick n).stsA = s.stsA := rfl
@[simp] theorem State.tick_stsB (s : State) (n : Nat) : (s.tick n).stsB = s.stsB := rfl
@[simp] theorem State.tick_dbOut (s : State) (n : Nat) : (s.tick n).dbOut = s.dbOut := rfl
@[simp] theorem State.tick_dbIn (s : State) (n : Nat) : (s.tick n).dbIn = s.dbIn := rfl
@[simp] theorem State.tick_comm (s : State) (n : Nat) : (s.tick n).comm = s.comm := rfl
@[simp] theorem State.tick_refclk (s : State) (n : Nat) : (s.tick n).refclk = s.refclk := rfl
@[simp] theorem State.tick_outMsg (s : State) (n : Nat) : (s.tick n).outMsg = s.outMsg := rfl
@[simp] theorem State.tick_inMsg (s : State) (n : Nat) : (s.tick n).inMsg = s.inMsg := rfl
@[simp] theorem State.tick_trace (s : State) (n : Nat) : (s.tick n).trace = s.trace := rfl
@[simp] theorem State.tick_cmd (s : State) (n : Nat) : (s.tick n).cmd = s.cmd := rfl
@[simp] theorem State.tick_arg0 (s : State) (n : Nat) : (s.tick n).arg0 = s.arg0 := rfl
@[simp] theorem State.tick_arg1 (s : State) (n : Nat) : (s.tick n).arg1 = s.arg1 := rfl
@[simp] theorem State.tick_result (s : State) (n : Nat) : (s.tick n).result = s.result := rfl
@[simp] theorem State.tick_res0 (s : State) (n : Nat) : (s.tick n).res0 = s.res0 := rfl
@[simp] theorem State.tick_res1 (s : State) (n : Nat) : (s.tick n).res1 = s.res1 := rfl
@[simp] theorem State.tick_res2 (s : State) (n : Nat) : (s.tick n).res2 = s.res2 := rfl
@[simp] theorem State.tick_msgbuf (s : State) (n : Nat) : (s.tick n).msgbuf = s.msgbuf := rfl
@[simp] theorem State.tick_seq (s : State) (n : Nat) : (s.tick n).seq = s.seq := rfl
@[simp] theorem State.tick_env (s : State) (n : Nat) : (s.tick n).env = s.env := rfl
@[simp] theorem State.tick_client (s : State) (n : Nat) : (s.tick n).client = s.client := rfl
@[simp] theorem State.tick_draws (s : State) (n : Nat) : (s.tick n).draws = s.draws := rfl

/-! ### `State.produce` -/

@[simp] theorem State.produce_cfg (s : State) (w : Word) : (s.produce w).cfg = s.cfg := rfl
@[simp] theorem State.produce_hcsr (s : State) (w : Word) : (s.produce w).hcsr = s.hcsr := rfl
@[simp] theorem State.produce_ccsr (s : State) (w : Word) :
    (s.produce w).ccsr = { s.ccsr with wp := s.ccsr.wp + 1 } := rfl
@[simp] theorem State.produce_txring (s : State) (w : Word) : (s.produce w).txring = s.txring := rfl
@[simp] theorem State.produce_rxring (s : State) (w : Word) : (s.produce w).rxring = s.rxring ++ [w] := rfl
@[simp] theorem State.produce_counter (s : State) (w : Word) : (s.produce w).counter = s.counter := rfl
@[simp] theorem State.produce_lstate (s : State) (w : Word) : (s.produce w).lstate = s.lstate := rfl
@[simp] theorem State.produce_resync (s : State) (w : Word) : (s.produce w).resync = s.resync := rfl
@[simp] theorem State.produce_stsA (s : State) (w : Word) : (s.produce w).stsA = s.stsA := rfl
@[simp] theorem State.produce_stsB (s : State) (w : Word) : (s.produce w).stsB = s.stsB := rfl
@[simp] theorem State.produce_dbOut (s : State) (w : Word) : (s.produce w).dbOut = s.dbOut := rfl
@[simp] theorem State.produce_dbIn (s : State) (w : Word) : (s.produce w).dbIn = s.dbIn := rfl
@[simp] theorem State.produce_comm (s : State) (w : Word) : (s.produce w).comm = s.comm := rfl
@[simp] theorem State.produce_refclk (s : State) (w : Word) : (s.produce w).refclk = s.refclk := rfl
@[simp] theorem State.produce_outMsg (s : State) (w : Word) : (s.produce w).outMsg = s.outMsg := rfl
@[simp] theorem State.produce_inMsg (s : State) (w : Word) : (s.produce w).inMsg = s.inMsg := rfl
@[simp] theorem State.produce_trace (s : State) (w : Word) : (s.produce w).trace = s.trace := rfl
@[simp] theorem State.produce_cmd (s : State) (w : Word) : (s.produce w).cmd = s.cmd := rfl
@[simp] theorem State.produce_arg0 (s : State) (w : Word) : (s.produce w).arg0 = s.arg0 := rfl
@[simp] theorem State.produce_arg1 (s : State) (w : Word) : (s.produce w).arg1 = s.arg1 := rfl
@[simp] theorem State.produce_result (s : State) (w : Word) : (s.produce w).result = s.result := rfl
@[simp] theorem State.produce_res0 (s : State) (w : Word) : (s.produce w).res0 = s.res0 := rfl
@[simp] theorem State.produce_res1 (s : State) (w : Word) : (s.produce w).res1 = s.res1 := rfl
@[simp] theorem State.produce_res2 (s : State) (w : Word) : (s.produce w).res2 = s.res2 := rfl
@[simp] theorem State.produce_msgbuf (s : State) (w : Word) : (s.produce w).msgbuf = s.msgbuf := rfl
@[simp] theorem State.produce_seq (s : State) (w : Word) : (s.produce w).seq = s.seq := rfl
@[simp] theorem State.produce_env (s : State) (w : Word) : (s.produce w).env = s.env := rfl
@[simp] theorem State.produce_client (s : State) (w : Word) : (s.produce w).client = s.client := rfl
@[simp] theorem State.produce_draws (s : State) (w : Word) : (s.produce w).draws = s.draws := rfl

end Sys2Proof.Machine
end

