-- ==== Sys2Proof/Laws/Env.lean ====
section
/-! SUPPORT. What the environment's moves (20_memory.md R66 to R74) can touch: everything else they keep, and they
commute with the engine's own updates. -/

namespace Sys2Proof.Machine

/-! ### The moves in two parts -/

/-- A move of `consume` keeps every field but `TXRING` and `HCSR`. -/
theorem State.consume_eq (s : State) :
    s.consume = s ∨ s.consume = { s with txring := s.txring.tail, hcsr := { s.hcsr with rp := s.hcsr.rp + 1 } } := by
  unfold State.consume
  split
  · exact .inl rfl
  · rename_i h
    exact .inr (by rw [h]; rfl)

/-- Everything one move can do (20_memory.md R66 to R74): only these fields can change. -/
theorem State.envMove_eq (s : State) (m : EnvMove) :
    ∃ h c tx rx n a b o i w,
      s.envMove m = { s with hcsr := h, ccsr := c, txring := tx, rxring := rx, counter := n, stsA := a, stsB := b,
                             dbOut := o, dbIn := i, inMsg := w } ∧
      h.depth = s.hcsr.depth ∧ h.rst = s.hcsr.rst ∧ (h.rdy = true → s.hcsr.rdy = true) ∧ c.depth = s.ccsr.depth := by
  cases m
  case consume =>
    rcases s.consume_eq with h | h <;> rw [State.envMove, h]
    all_goals exact ⟨_, _, _, _, _, _, _, _, _, _, rfl, rfl, rfl, id, rfl⟩
  case ccsrFlag f v => cases f <;> exact ⟨_, _, _, _, _, _, _, _, _, _, rfl, rfl, rfl, id, rfl⟩
  case acceptReset =>
    simp only [State.envMove, State.acceptReset]
    split <;> exact ⟨_, _, _, _, _, _, _, _, _, _, rfl, rfl, rfl, by simp, rfl⟩
  case disturbRing ws =>
    simp only [State.envMove]
    split <;> exact ⟨_, _, _, _, _, _, _, _, _, _, rfl, rfl, rfl, id, rfl⟩
  case loseTxWord i =>
    simp only [State.envMove]
    split <;> exact ⟨_, _, _, _, _, _, _, _, _, _, rfl, rfl, rfl, id, rfl⟩
  case takeOut =>
    simp only [State.envMove, State.whenDoorbell]
    split <;> exact ⟨_, _, _, _, _, _, _, _, _, _, rfl, rfl, rfl, id, rfl⟩
  case writeInMsg i b =>
    simp only [State.envMove, State.whenDoorbell]
    split
    · split <;> exact ⟨_, _, _, _, _, _, _, _, _, _, rfl, rfl, rfl, id, rfl⟩
    · exact ⟨_, _, _, _, _, _, _, _, _, _, rfl, rfl, rfl, id, rfl⟩
  case postIn w =>
    simp only [State.envMove, State.whenDoorbell]
    split
    · split <;> exact ⟨_, _, _, _, _, _, _, _, _, _, rfl, rfl, rfl, id, rfl⟩
    · exact ⟨_, _, _, _, _, _, _, _, _, _, rfl, rfl, rfl, id, rfl⟩
  case forceIn w =>
    simp only [State.envMove, State.whenDoorbell]
    split <;> exact ⟨_, _, _, _, _, _, _, _, _, _, rfl, rfl, rfl, id, rfl⟩
  case loopback =>
    simp only [State.envMove, State.loopback]
    split
    · exact ⟨_, _, _, _, _, _, _, _, _, _, rfl, rfl, rfl, id, rfl⟩
    · split
      · rcases s.consume_eq with h | h <;> rw [h]
        all_goals exact ⟨_, _, _, _, _, _, _, _, _, _, rfl, rfl, rfl, id, rfl⟩
      · exact ⟨_, _, _, _, _, _, _, _, _, _, rfl, rfl, rfl, id, rfl⟩
  all_goals exact ⟨_, _, _, _, _, _, _, _, _, _, rfl, rfl, rfl, id, rfl⟩

@[simp] theorem State.envMoves_nil (s : State) : s.envMoves [] = s := rfl

@[simp] theorem State.envMoves_cons (s : State) (m : EnvMove) (ms : List EnvMove) :
    s.envMoves (m :: ms) = (s.envMove m).envMoves ms := rfl

/-- Everything a list of moves can do. -/
theorem State.envMoves_eq (s : State) (ms : List EnvMove) :
    ∃ h c tx rx n a b o i w,
      s.envMoves ms = { s with hcsr := h, ccsr := c, txring := tx, rxring := rx, counter := n, stsA := a, stsB := b,
                               dbOut := o, dbIn := i, inMsg := w } ∧
      h.depth = s.hcsr.depth ∧ h.rst = s.hcsr.rst ∧ (h.rdy = true → s.hcsr.rdy = true) ∧ c.depth = s.ccsr.depth := by
  induction ms generalizing s with
  | nil => exact ⟨_, _, _, _, _, _, _, _, _, _, rfl, rfl, rfl, id, rfl⟩
  | cons m ms ih =>
    obtain ⟨h, c, tx, rx, n, a, b, o, i, w, e, h1, h2, h3, h4⟩ := s.envMove_eq m
    obtain ⟨h', c', tx', rx', n', a', b', o', i', w', e', h1', h2', h3', h4'⟩ := ih (s.envMove m)
    rw [State.envMoves_cons, e']
    refine ⟨h', c', tx', rx', n', a', b', o', i', w', ?_, ?_, ?_, ?_, ?_⟩
    · rw [e]
    · rw [h1', e]; exact h1
    · rw [h2', e]; exact h2
    · intro k; have := h3' k; rw [e] at this; exact h3 this
    · rw [h4', e]; exact h4

/-- Everything the environment can do before an engine step. -/
theorem State.advance_eq (s : State) :
    ∃ h c tx rx n a b o i w,
      s.advance = { s with hcsr := h, ccsr := c, txring := tx, rxring := rx, counter := n, stsA := a, stsB := b,
                           dbOut := o, dbIn := i, inMsg := w, env := s.env.tail } ∧
      h.depth = s.hcsr.depth ∧ h.rst = s.hcsr.rst ∧ (h.rdy = true → s.hcsr.rdy = true) ∧ c.depth = s.ccsr.depth := by
  unfold State.advance
  split
  · rename_i e
    refine ⟨s.hcsr, s.ccsr, s.txring, s.rxring, s.counter, s.stsA, s.stsB, s.dbOut, s.dbIn, s.inMsg, ?_, rfl, rfl, id, rfl⟩
    rw [e, List.tail_nil, ← e]
  · rename_i ms later e
    obtain ⟨h, c, tx, rx, n, a, b, o, i, w, e', h1, h2, h3, h4⟩ := ({ s with env := later } : State).envMoves_eq ms
    exact ⟨h, c, tx, rx, n, a, b, o, i, w, by rw [e', e]; rfl, h1, h2, h3, h4⟩

/-- A schedule that has ended holds no more moves. -/
theorem State.advance_nil {s : State} (h : s.env = []) : s.advance = s := by
  unfold State.advance
  rw [h]

/-! ### Fields no move touches -/

@[simp] theorem State.envMove_cfg (s : State) (m : EnvMove) : (s.envMove m).cfg = s.cfg := by
  obtain ⟨_, _, _, _, _, _, _, _, _, _, e, -⟩ := s.envMove_eq m; rw [e]

@[simp] theorem State.envMove_lstate (s : State) (m : EnvMove) : (s.envMove m).lstate = s.lstate := by
  obtain ⟨_, _, _, _, _, _, _, _, _, _, e, -⟩ := s.envMove_eq m; rw [e]

@[simp] theorem State.envMove_resync (s : State) (m : EnvMove) : (s.envMove m).resync = s.resync := by
  obtain ⟨_, _, _, _, _, _, _, _, _, _, e, -⟩ := s.envMove_eq m; rw [e]

@[simp] theorem State.envMove_comm (s : State) (m : EnvMove) : (s.envMove m).comm = s.comm := by
  obtain ⟨_, _, _, _, _, _, _, _, _, _, e, -⟩ := s.envMove_eq m; rw [e]

@[simp] theorem State.envMove_refclk (s : State) (m : EnvMove) : (s.envMove m).refclk = s.refclk := by
  obtain ⟨_, _, _, _, _, _, _, _, _, _, e, -⟩ := s.envMove_eq m; rw [e]

@[simp] theorem State.envMove_outMsg (s : State) (m : EnvMove) : (s.envMove m).outMsg = s.outMsg := by
  obtain ⟨_, _, _, _, _, _, _, _, _, _, e, -⟩ := s.envMove_eq m; rw [e]

@[simp] theorem State.envMove_trace (s : State) (m : EnvMove) : (s.envMove m).trace = s.trace := by
  obtain ⟨_, _, _, _, _, _, _, _, _, _, e, -⟩ := s.envMove_eq m; rw [e]

@[simp] theorem State.envMove_cmd (s : State) (m : EnvMove) : (s.envMove m).cmd = s.cmd := by
  obtain ⟨_, _, _, _, _, _, _, _, _, _, e, -⟩ := s.envMove_eq m; rw [e]

@[simp] theorem State.envMove_arg0 (s : State) (m : EnvMove) : (s.envMove m).arg0 = s.arg0 := by
  obtain ⟨_, _, _, _, _, _, _, _, _, _, e, -⟩ := s.envMove_eq m; rw [e]

@[simp] theorem State.envMove_arg1 (s : State) (m : EnvMove) : (s.envMove m).arg1 = s.arg1 := by
  obtain ⟨_, _, _, _, _, _, _, _, _, _, e, -⟩ := s.envMove_eq m; rw [e]

@[simp] theorem State.envMove_result (s : State) (m : EnvMove) : (s.envMove m).result = s.result := by
  obtain ⟨_, _, _, _, _, _, _, _, _, _, e, -⟩ := s.envMove_eq m; rw [e]

@[simp] theorem State.envMove_res0 (s : State) (m : EnvMove) : (s.envMove m).res0 = s.res0 := by
  obtain ⟨_, _, _, _, _, _, _, _, _, _, e, -⟩ := s.envMove_eq m; rw [e]

@[simp] theorem State.envMove_res1 (s : State) (m : EnvMove) : (s.envMove m).res1 = s.res1 := by
  obtain ⟨_, _, _, _, _, _, _, _, _, _, e, -⟩ := s.envMove_eq m; rw [e]

@[simp] theorem State.envMove_res2 (s : State) (m : EnvMove) : (s.envMove m).res2 = s.res2 := by
  obtain ⟨_, _, _, _, _, _, _, _, _, _, e, -⟩ := s.envMove_eq m; rw [e]

@[simp] theorem State.envMove_msgbuf (s : State) (m : EnvMove) : (s.envMove m).msgbuf = s.msgbuf := by
  obtain ⟨_, _, _, _, _, _, _, _, _, _, e, -⟩ := s.envMove_eq m; rw [e]

@[simp] theorem State.envMove_seq (s : State) (m : EnvMove) : (s.envMove m).seq = s.seq := by
  obtain ⟨_, _, _, _, _, _, _, _, _, _, e, -⟩ := s.envMove_eq m; rw [e]

@[simp] theorem State.envMove_client (s : State) (m : EnvMove) : (s.envMove m).client = s.client := by
  obtain ⟨_, _, _, _, _, _, _, _, _, _, e, -⟩ := s.envMove_eq m; rw [e]

@[simp] theorem State.envMove_draws (s : State) (m : EnvMove) : (s.envMove m).draws = s.draws := by
  obtain ⟨_, _, _, _, _, _, _, _, _, _, e, -⟩ := s.envMove_eq m; rw [e]

@[simp] theorem State.envMove_env (s : State) (m : EnvMove) : (s.envMove m).env = s.env := by
  obtain ⟨_, _, _, _, _, _, _, _, _, _, e, -⟩ := s.envMove_eq m; rw [e]

@[simp] theorem State.envMove_hcsr_depth (s : State) (m : EnvMove) : (s.envMove m).hcsr.depth = s.hcsr.depth := by
  obtain ⟨_, _, _, _, _, _, _, _, _, _, e, h, -, -, -⟩ := s.envMove_eq m; rw [e]; exact h

@[simp] theorem State.envMove_hcsr_rst (s : State) (m : EnvMove) : (s.envMove m).hcsr.rst = s.hcsr.rst := by
  obtain ⟨_, _, _, _, _, _, _, _, _, _, e, -, h, -, -⟩ := s.envMove_eq m; rw [e]; exact h

@[simp] theorem State.envMove_ccsr_depth (s : State) (m : EnvMove) : (s.envMove m).ccsr.depth = s.ccsr.depth := by
  obtain ⟨_, _, _, _, _, _, _, _, _, _, e, -, -, -, h⟩ := s.envMove_eq m; rw [e]; exact h

@[simp] theorem State.envMoves_cfg (s : State) (ms : List EnvMove) : (s.envMoves ms).cfg = s.cfg := by
  obtain ⟨_, _, _, _, _, _, _, _, _, _, e, -⟩ := s.envMoves_eq ms; rw [e]

@[simp] theorem State.envMoves_lstate (s : State) (ms : List EnvMove) : (s.envMoves ms).lstate = s.lstate := by
  obtain ⟨_, _, _, _, _, _, _, _, _, _, e, -⟩ := s.envMoves_eq ms; rw [e]

@[simp] theorem State.envMoves_resync (s : State) (ms : List EnvMove) : (s.envMoves ms).resync = s.resync := by
  obtain ⟨_, _, _, _, _, _, _, _, _, _, e, -⟩ := s.envMoves_eq ms; rw [e]

@[simp] theorem State.envMoves_comm (s : State) (ms : List EnvMove) : (s.envMoves ms).comm = s.comm := by
  obtain ⟨_, _, _, _, _, _, _, _, _, _, e, -⟩ := s.envMoves_eq ms; rw [e]

@[simp] theorem State.envMoves_refclk (s : State) (ms : List EnvMove) : (s.envMoves ms).refclk = s.refclk := by
  obtain ⟨_, _, _, _, _, _, _, _, _, _, e, -⟩ := s.envMoves_eq ms; rw [e]

@[simp] theorem State.envMoves_outMsg (s : State) (ms : List EnvMove) : (s.envMoves ms).outMsg = s.outMsg := by
  obtain ⟨_, _, _, _, _, _, _, _, _, _, e, -⟩ := s.envMoves_eq ms; rw [e]

@[simp] theorem State.envMoves_trace (s : State) (ms : List EnvMove) : (s.envMoves ms).trace = s.trace := by
  obtain ⟨_, _, _, _, _, _, _, _, _, _, e, -⟩ := s.envMoves_eq ms; rw [e]

@[simp] theorem State.envMoves_cmd (s : State) (ms : List EnvMove) : (s.envMoves ms).cmd = s.cmd := by
  obtain ⟨_, _, _, _, _, _, _, _, _, _, e, -⟩ := s.envMoves_eq ms; rw [e]

@[simp] theorem State.envMoves_arg0 (s : State) (ms : List EnvMove) : (s.envMoves ms).arg0 = s.arg0 := by
  obtain ⟨_, _, _, _, _, _, _, _, _, _, e, -⟩ := s.envMoves_eq ms; rw [e]

@[simp] theorem State.envMoves_arg1 (s : State) (ms : List EnvMove) : (s.envMoves ms).arg1 = s.arg1 := by
  obtain ⟨_, _, _, _, _, _, _, _, _, _, e, -⟩ := s.envMoves_eq ms; rw [e]

@[simp] theorem State.envMoves_result (s : State) (ms : List EnvMove) : (s.envMoves ms).result = s.result := by
  obtain ⟨_, _, _, _, _, _, _, _, _, _, e, -⟩ := s.envMoves_eq ms; rw [e]

@[simp] theorem State.envMoves_res0 (s : State) (ms : List EnvMove) : (s.envMoves ms).res0 = s.res0 := by
  obtain ⟨_, _, _, _, _, _, _, _, _, _, e, -⟩ := s.envMoves_eq ms; rw [e]

@[simp] theorem State.envMoves_res1 (s : State) (ms : List EnvMove) : (s.envMoves ms).res1 = s.res1 := by
  obtain ⟨_, _, _, _, _, _, _, _, _, _, e, -⟩ := s.envMoves_eq ms; rw [e]

@[simp] theorem State.envMoves_res2 (s : State) (ms : List EnvMove) : (s.envMoves ms).res2 = s.res2 := by
  obtain ⟨_, _, _, _, _, _, _, _, _, _, e, -⟩ := s.envMoves_eq ms; rw [e]

@[simp] theorem State.envMoves_msgbuf (s : State) (ms : List EnvMove) : (s.envMoves ms).msgbuf = s.msgbuf := by
  obtain ⟨_, _, _, _, _, _, _, _, _, _, e, -⟩ := s.envMoves_eq ms; rw [e]

@[simp] theorem State.envMoves_seq (s : State) (ms : List EnvMove) : (s.envMoves ms).seq = s.seq := by
  obtain ⟨_, _, _, _, _, _, _, _, _, _, e, -⟩ := s.envMoves_eq ms; rw [e]

@[simp] theorem State.envMoves_client (s : State) (ms : List EnvMove) : (s.envMoves ms).client = s.client := by
  obtain ⟨_, _, _, _, _, _, _, _, _, _, e, -⟩ := s.envMoves_eq ms; rw [e]

@[simp] theorem State.envMoves_draws (s : State) (ms : List EnvMove) : (s.envMoves ms).draws = s.draws := by
  obtain ⟨_, _, _, _, _, _, _, _, _, _, e, -⟩ := s.envMoves_eq ms; rw [e]

@[simp] theorem State.envMoves_env (s : State) (ms : List EnvMove) : (s.envMoves ms).env = s.env := by
  obtain ⟨_, _, _, _, _, _, _, _, _, _, e, -⟩ := s.envMoves_eq ms; rw [e]

@[simp] theorem State.envMoves_hcsr_depth (s : State) (ms : List EnvMove) : (s.envMoves ms).hcsr.depth = s.hcsr.depth := by
  obtain ⟨_, _, _, _, _, _, _, _, _, _, e, h, -, -, -⟩ := s.envMoves_eq ms; rw [e]; exact h

@[simp] theorem State.envMoves_hcsr_rst (s : State) (ms : List EnvMove) : (s.envMoves ms).hcsr.rst = s.hcsr.rst := by
  obtain ⟨_, _, _, _, _, _, _, _, _, _, e, -, h, -, -⟩ := s.envMoves_eq ms; rw [e]; exact h

@[simp] theorem State.envMoves_ccsr_depth (s : State) (ms : List EnvMove) : (s.envMoves ms).ccsr.depth = s.ccsr.depth := by
  obtain ⟨_, _, _, _, _, _, _, _, _, _, e, -, -, -, h⟩ := s.envMoves_eq ms; rw [e]; exact h

@[simp] theorem State.advance_cfg (s : State) : (s.advance).cfg = s.cfg := by
  obtain ⟨_, _, _, _, _, _, _, _, _, _, e, -⟩ := s.advance_eq; rw [e]

@[simp] theorem State.advance_lstate (s : State) : (s.advance).lstate = s.lstate := by
  obtain ⟨_, _, _, _, _, _, _, _, _, _, e, -⟩ := s.advance_eq; rw [e]

@[simp] theorem State.advance_resync (s : State) : (s.advance).resync = s.resync := by
  obtain ⟨_, _, _, _, _, _, _, _, _, _, e, -⟩ := s.advance_eq; rw [e]

@[simp] theorem State.advance_comm (s : State) : (s.advance).comm = s.comm := by
  obtain ⟨_, _, _, _, _, _, _, _, _, _, e, -⟩ := s.advance_eq; rw [e]

@[simp] theorem State.advance_refclk (s : State) : (s.advance).refclk = s.refclk := by
  obtain ⟨_, _, _, _, _, _, _, _, _, _, e, -⟩ := s.advance_eq; rw [e]

@[simp] theorem State.advance_outMsg (s : State) : (s.advance).outMsg = s.outMsg := by
  obtain ⟨_, _, _, _, _, _, _, _, _, _, e, -⟩ := s.advance_eq; rw [e]

@[simp] theorem State.advance_trace (s : State) : (s.advance).trace = s.trace := by
  obtain ⟨_, _, _, _, _, _, _, _, _, _, e, -⟩ := s.advance_eq; rw [e]

@[simp] theorem State.advance_cmd (s : State) : (s.advance).cmd = s.cmd := by
  obtain ⟨_, _, _, _, _, _, _, _, _, _, e, -⟩ := s.advance_eq; rw [e]

@[simp] theorem State.advance_arg0 (s : State) : (s.advance).arg0 = s.arg0 := by
  obtain ⟨_, _, _, _, _, _, _, _, _, _, e, -⟩ := s.advance_eq; rw [e]

@[simp] theorem State.advance_arg1 (s : State) : (s.advance).arg1 = s.arg1 := by
  obtain ⟨_, _, _, _, _, _, _, _, _, _, e, -⟩ := s.advance_eq; rw [e]

@[simp] theorem State.advance_result (s : State) : (s.advance).result = s.result := by
  obtain ⟨_, _, _, _, _, _, _, _, _, _, e, -⟩ := s.advance_eq; rw [e]

@[simp] theorem State.advance_res0 (s : State) : (s.advance).res0 = s.res0 := by
  obtain ⟨_, _, _, _, _, _, _, _, _, _, e, -⟩ := s.advance_eq; rw [e]

@[simp] theorem State.advance_res1 (s : State) : (s.advance).res1 = s.res1 := by
  obtain ⟨_, _, _, _, _, _, _, _, _, _, e, -⟩ := s.advance_eq; rw [e]

@[simp] theorem State.advance_res2 (s : State) : (s.advance).res2 = s.res2 := by
  obtain ⟨_, _, _, _, _, _, _, _, _, _, e, -⟩ := s.advance_eq; rw [e]

@[simp] theorem State.advance_msgbuf (s : State) : (s.advance).msgbuf = s.msgbuf := by
  obtain ⟨_, _, _, _, _, _, _, _, _, _, e, -⟩ := s.advance_eq; rw [e]

@[simp] theorem State.advance_seq (s : State) : (s.advance).seq = s.seq := by
  obtain ⟨_, _, _, _, _, _, _, _, _, _, e, -⟩ := s.advance_eq; rw [e]

@[simp] theorem State.advance_client (s : State) : (s.advance).client = s.client := by
  obtain ⟨_, _, _, _, _, _, _, _, _, _, e, -⟩ := s.advance_eq; rw [e]

@[simp] theorem State.advance_draws (s : State) : (s.advance).draws = s.draws := by
  obtain ⟨_, _, _, _, _, _, _, _, _, _, e, -⟩ := s.advance_eq; rw [e]

@[simp] theorem State.advance_env (s : State) : s.advance.env = s.env.tail := by
  obtain ⟨_, _, _, _, _, _, _, _, _, _, e, -⟩ := s.advance_eq; rw [e]

@[simp] theorem State.advance_hcsr_depth (s : State) : (s.advance).hcsr.depth = s.hcsr.depth := by
  obtain ⟨_, _, _, _, _, _, _, _, _, _, e, h, -, -, -⟩ := s.advance_eq; rw [e]; exact h

@[simp] theorem State.advance_hcsr_rst (s : State) : (s.advance).hcsr.rst = s.hcsr.rst := by
  obtain ⟨_, _, _, _, _, _, _, _, _, _, e, -, h, -, -⟩ := s.advance_eq; rw [e]; exact h

@[simp] theorem State.advance_ccsr_depth (s : State) : (s.advance).ccsr.depth = s.ccsr.depth := by
  obtain ⟨_, _, _, _, _, _, _, _, _, _, e, -, -, -, h⟩ := s.advance_eq; rw [e]; exact h

/-! ### The moves commute with the engine's own fields -/

/-- The environment neither reads nor writes the fields that only the engine and the client use. -/
theorem State.envMove_with (s : State) (m : EnvMove) (l : LState) (r : Bool) (co : Comm) (rf : Word) (om : Memory)
    (tr : List Event) (c a0 a1 : Word) (re : BitVec 8) (r0 r1 r2 : Word) (mb : Memory) (q : Seq)
    (en : List (List EnvMove)) (cl : List ClientMove) (d : Nat) :
    ({ s with lstate := l, resync := r, comm := co, refclk := rf, outMsg := om, trace := tr, cmd := c, arg0 := a0,
              arg1 := a1, result := re, res0 := r0, res1 := r1, res2 := r2, msgbuf := mb, seq := q, env := en,
              client := cl, draws := d } : State).envMove m =
      { s.envMove m with
        lstate := l, resync := r, comm := co, refclk := rf, outMsg := om, trace := tr, cmd := c, arg0 := a0,
        arg1 := a1, result := re, res0 := r0, res1 := r1, res2 := r2, msgbuf := mb, seq := q, env := en,
        client := cl, draws := d } := by
  cases m
  case consume =>
    obtain ⟨cf, h, cc, tx⟩ := s
    cases tx <;> rfl
  case loopback =>
    obtain ⟨cf, h, cc, tx⟩ := s
    cases tx with
    | nil => rfl
    | cons w ws =>
      simp only [State.envMove, State.loopback, State.consume, State.produce]
      split <;> rfl
  case acceptReset => simp only [State.envMove, State.acceptReset]; split <;> rfl
  case disturbRing => simp only [State.envMove]; split <;> rfl
  case loseTxWord => simp only [State.envMove]; split <;> rfl
  case takeOut => simp only [State.envMove, State.whenDoorbell]; split <;> rfl
  case writeInMsg => simp only [State.envMove, State.whenDoorbell]; split <;> [split; skip] <;> rfl
  case postIn => simp only [State.envMove, State.whenDoorbell]; split <;> [split; skip] <;> rfl
  case forceIn => simp only [State.envMove, State.whenDoorbell]; split <;> rfl
  all_goals rfl

theorem State.envMoves_with (s : State) (ms : List EnvMove) (l : LState) (r : Bool) (co : Comm) (rf : Word)
    (om : Memory) (tr : List Event) (c a0 a1 : Word) (re : BitVec 8) (r0 r1 r2 : Word) (mb : Memory) (q : Seq)
    (en : List (List EnvMove)) (cl : List ClientMove) (d : Nat) :
    ({ s with lstate := l, resync := r, comm := co, refclk := rf, outMsg := om, trace := tr, cmd := c, arg0 := a0,
              arg1 := a1, result := re, res0 := r0, res1 := r1, res2 := r2, msgbuf := mb, seq := q, env := en,
              client := cl, draws := d } : State).envMoves ms =
      { s.envMoves ms with
        lstate := l, resync := r, comm := co, refclk := rf, outMsg := om, trace := tr, cmd := c, arg0 := a0,
        arg1 := a1, result := re, res0 := r0, res1 := r1, res2 := r2, msgbuf := mb, seq := q, env := en,
        client := cl, draws := d } := by
  induction ms generalizing s with
  | nil => rfl
  | cons m ms ih => rw [State.envMoves_cons, State.envMoves_cons, State.envMove_with, ih]

/-- The environment's moves before a step commute with every update of the engine's own fields. -/
theorem State.advance_with (s : State) (l : LState) (r : Bool) (co : Comm) (rf : Word) (om : Memory)
    (tr : List Event) (c a0 a1 : Word) (re : BitVec 8) (r0 r1 r2 : Word) (mb : Memory) (q : Seq)
    (cl : List ClientMove) (d : Nat) :
    ({ s with lstate := l, resync := r, comm := co, refclk := rf, outMsg := om, trace := tr, cmd := c, arg0 := a0,
              arg1 := a1, result := re, res0 := r0, res1 := r1, res2 := r2, msgbuf := mb, seq := q, client := cl,
              draws := d } : State).advance =
      { s.advance with
        lstate := l, resync := r, comm := co, refclk := rf, outMsg := om, trace := tr, cmd := c, arg0 := a0,
        arg1 := a1, result := re, res0 := r0, res1 := r1, res2 := r2, msgbuf := mb, seq := q, client := cl,
        draws := d } := by
  unfold State.advance
  dsimp only
  split
  · rfl
  · rename_i ms later e
    have h := State.envMoves_with { s with env := later } ms l r co rf om tr c a0 a1 re r0 r1 r2 mb q later cl d
    rw [h]
    have h2 := State.envMoves_env { s with env := later } ms
    dsimp only at h2
    generalize State.envMoves { s with env := later } ms = u at h2 ⊢
    cases u
    simp only at h2 ⊢
    rw [h2]

/-- The environment's moves commute with the engine's position. -/
theorem State.advance_withSeq (s : State) (q : Seq) : ({ s with seq := q } : State).advance = { s.advance with seq := q } := by
  have h := s.advance_with s.lstate s.resync s.comm s.refclk s.outMsg s.trace s.cmd s.arg0 s.arg1 s.result s.res0
    s.res1 s.res2 s.msgbuf q s.client s.draws
  rw [show ({ s with seq := q } : State) = _ from rfl, h]
  simp only [← State.advance_lstate s, ← State.advance_resync s, ← State.advance_comm s, ← State.advance_refclk s,
    ← State.advance_outMsg s, ← State.advance_trace s, ← State.advance_cmd s, ← State.advance_arg0 s,
    ← State.advance_arg1 s, ← State.advance_result s, ← State.advance_res0 s, ← State.advance_res1 s,
    ← State.advance_res2 s, ← State.advance_msgbuf s, ← State.advance_client s, ← State.advance_draws s]

/-- The environment's moves commute with the engine's position. -/
@[simp] theorem State.advance_goto (s : State) (p : Pos) : (s.goto p).advance = s.advance.goto p := s.advance_withSeq _

@[simp] theorem State.advance_poll (s : State) (w : Wait) : (s.poll w).advance = s.advance.poll w := s.advance_withSeq _

end Sys2Proof.Machine
end

