-- ==== Sys2Proof/Laws/Engine.lean ====
section
/-! SUPPORT. The run of the engine: one step, many steps, induction along a run, and what one atomic step can do to
the fields that no command, or only some commands, write. -/

namespace Sys2Proof.Machine

/-! ### The run -/

theorem engineRun_zero (s : State) : engineRun 0 s = .next s := rfl

/-- The engine of an idle machine does nothing. -/
theorem engineRun_idle {s : State} (h : s.seq = .idle) (n : Nat) : engineRun n s = .next s := by
  cases n with
  | zero => rfl
  | succ n => simp only [engineRun, h]

/-- A command that is not started is not run by the engine. -/
theorem engineRun_issued {s : State} (h : s.seq = .issued) (n : Nat) : engineRun n s = .next s := by
  cases n with
  | zero => rfl
  | succ n => simp only [engineRun, h]

/-- One step of the run, at a position. -/
theorem engineRun_succ {s : State} {p : Pos} (h : s.seq = .busy p) (n : Nat) :
    engineRun (n + 1) s =
      if spins s p then .next s
      else match engineAct s.advance p with
        | .next s' => engineRun n s'
        | .fault f => .fault f
        | .refused r => .refused r := by
  simp only [engineRun, h] <;> rfl

/-- One step of the run that is taken and goes on. -/
theorem engineRun_step {s s' : State} {p : Pos} (h : s.seq = .busy p) (hs : spins s p = false)
    (ha : engineAct s.advance p = .next s') (n : Nat) : engineRun (n + 1) s = engineRun n s' := by
  rw [engineRun_succ h, hs, ha]
  rfl

/-- A spinning engine stays where it is. -/
theorem engineRun_spins {s : State} {p : Pos} (h : s.seq = .busy p) (hs : spins s p = true) (n : Nat) :
    engineRun n s = .next s := by
  cases n with
  | zero => rfl
  | succ n => rw [engineRun_succ h, hs]; rfl

/-- A run in two parts. -/
theorem engineRun_add (m n : Nat) (s : State) :
    engineRun (m + n) s =
      match engineRun m s with
      | .next t => engineRun n t
      | .fault f => .fault f
      | .refused r => .refused r := by
  induction m generalizing s with
  | zero => rw [Nat.zero_add, engineRun_zero]
  | succ m ih =>
    rw [Nat.succ_add]
    rcases hq : s.seq with _ | _ | p
    · rw [engineRun_idle hq, engineRun_idle hq]; exact (engineRun_idle hq n).symm
    · rw [engineRun_issued hq, engineRun_issued hq]; exact (engineRun_issued hq n).symm
    · by_cases hs : spins s p = true
      · rw [engineRun_spins hq hs, engineRun_spins hq hs]; exact (engineRun_spins hq hs n).symm
      · have hs' : spins s p = false := by simpa using hs
        rw [engineRun_succ hq, engineRun_succ hq, hs']
        cases ha : engineAct s.advance p with
        | next s' => simpa using ih s'
        | fault f => rfl
        | refused r => rfl

/-- Induction along a run: what every engine step keeps holds at its end. -/
theorem engineRun_induct {P : State → Prop}
    (hstep : ∀ s p s', s.seq = .busy p → P s → engineAct s.advance p = .next s' → P s')
    {n : Nat} {s t : State} (h : P s) (hr : engineRun n s = .next t) : P t := by
  induction n generalizing s with
  | zero => cases hr; exact h
  | succ n ih =>
    rcases hq : s.seq with _ | _ | p
    · rw [engineRun_idle hq] at hr; cases hr; exact h
    · rw [engineRun_issued hq] at hr; cases hr; exact h
    · rw [engineRun_succ hq] at hr
      split at hr
      · cases hr; exact h
      · cases ha : engineAct s.advance p with
        | next s' => rw [ha] at hr; exact ih (hstep s p s' hq h ha) hr
        | fault f => rw [ha] at hr; cases hr
        | refused r => rw [ha] at hr; cases hr

/-- Progress along a run: where every engine step that keeps `P` answers a next state, so does the run. -/
theorem engineRun_progress {P : State → Prop}
    (hstep : ∀ s p, s.seq = .busy p → P s → ∃ s', engineAct s.advance p = .next s' ∧ P s')
    (n : Nat) {s : State} (h : P s) : ∃ t, engineRun n s = .next t ∧ P t := by
  induction n generalizing s with
  | zero => exact ⟨s, rfl, h⟩
  | succ n ih =>
    rcases hq : s.seq with _ | _ | p
    · exact ⟨s, engineRun_idle hq _, h⟩
    · exact ⟨s, engineRun_issued hq _, h⟩
    · by_cases hs : spins s p = true
      · exact ⟨s, engineRun_spins hq hs _, h⟩
      · obtain ⟨s', ha, h'⟩ := hstep s p hq h
        rw [engineRun_step hq (by simpa using hs) ha]
        exact ih h'

/-- The bound of one run, split off its first step. -/
theorem runCommand_eq_succ : ∃ n, runBound = n + 1 := ⟨2 ^ 64 - 1, by decide⟩

/-- A command that has ended before its first access. -/
@[simp] theorem runCommand_ret (s : State) (c : ResultCode) : runCommand (s.ret c) = .next (s.ret c) :=
  engineRun_idle rfl _

/-- The engine comes from one state to another in this many steps that are taken. -/
inductive Reaches : Nat → State → State → Prop
  | refl (s : State) : Reaches 0 s s
  | step {k : Nat} {s u t : State} {p : Pos} (hq : s.seq = .busy p) (hs : spins s p = false)
      (ha : engineAct s.advance p = .next u) (h : Reaches k u t) : Reaches (k + 1) s t

/-- One step that is taken. -/
theorem Reaches.one {s u : State} {p : Pos} (hq : s.seq = .busy p) (hs : spins s p = false)
    (ha : engineAct s.advance p = .next u) : Reaches 1 s u :=
  .step hq hs ha (.refl u)

theorem Reaches.trans {j k : Nat} {s u t : State} (h : Reaches j s u) (h' : Reaches k u t) : Reaches (j + k) s t := by
  induction h with
  | refl s => rwa [Nat.zero_add]
  | step hq hs ha _ ih => rw [Nat.succ_add]; exact .step hq hs ha (ih h')

/-- A run that is long enough passes through every state reached. -/
theorem engineRun_of_reaches {k n : Nat} {s t : State} (h : Reaches k s t) (hk : k ≤ n) :
    engineRun n s = engineRun (n - k) t := by
  induction h generalizing n with
  | refl s => rw [Nat.sub_zero]
  | step hq hs ha _ ih =>
    obtain ⟨m, rfl⟩ : ∃ m, n = m + 1 := ⟨n - 1, by omega⟩
    rw [engineRun_step hq hs ha, ih (by omega), Nat.add_sub_add_right]

/-- A command that ends within the bound of a run answers its end. -/
theorem runCommand_of_reaches {k : Nat} {s t : State} (h : Reaches k s t) (hk : k ≤ 2 ^ 64) (ht : t.seq = .idle) :
    runCommand s = .next t := by
  unfold runCommand
  rw [engineRun_of_reaches (n := runBound) h hk, engineRun_idle ht]

/-! ### Polls -/

/-- Only a poll at its expiry test can spin. -/
theorem spins_eq_false {s : State} {p : Pos} (h : ∀ w t, p ≠ .pollNow w t) : spins s p = false := by
  unfold spins
  split
  · exact absurd rfl (h _ _)
  · rfl

/-- What an evaluation of a poll's condition does. -/
theorem pollCond_cases (s : State) (w : Wait) (t : Timer) :
    (waitCond s w = .wait ∧ pollCond s w t = s.goto (.pollNow w t)) ∨
      (waitCond s w = .ok ∧ pollCond s w t = waitEnd s .ok w) ∨
      ∃ c, waitCond s w = .err c ∧ pollCond s w t = waitEnd s (.err c) w := by
  unfold pollCond
  cases h : waitCond s w with
  | wait => exact .inl ⟨rfl, rfl⟩
  | ok => exact .inr (.inl ⟨rfl, rfl⟩)
  | err c => exact .inr (.inr ⟨c, rfl, rfl⟩)

/-- What a poll's expiry test does. -/
theorem pollNow_cases (s : State) (w : Wait) (t : Timer) :
    (expired t.start t.stop s.now = true ∧ pollNow s w t = waitEnd s (.err .timeout) w) ∨
      (expired t.start t.stop s.now = false ∧ pollNow s w t = s.goto (.pollCond w t)) := by
  unfold pollNow
  cases h : expired t.start t.stop s.now with
  | true => exact .inl ⟨rfl, rfl⟩
  | false => exact .inr ⟨rfl, rfl⟩

/-- The error a poll condition answers: only an overflow. -/
theorem waitCond_err {s : State} {w : Wait} {c : ResultCode} (h : waitCond s w = .err c) : c = .overflow := by
  cases w <;>
    simp only [waitCond, ctrlReadyCond, hostReadyClearCond, txSpaceCond, rxWordCond, outIdleCond, inBusyCond] at h <;>
    (repeat' split at h) <;> cases h <;> rfl

/-! ### Window accesses -/

/-- Everything a window write can do. -/
theorem State.outWrite_cases (s : State) (i : Nat) (b : Byte) (k : State → State) :
    (i < windowSize s.cfg ∧ s.outWrite i b k = .next (k { s with outMsg := memWrite s.outMsg i b })) ∨
      (¬ i < windowSize s.cfg ∧ s.outWrite i b k = .fault .windowOutOfRange) := by
  unfold State.outWrite
  split
  · exact .inl ⟨‹_›, rfl⟩
  · exact .inr ⟨‹_›, rfl⟩

/-- Everything a window read can do. -/
theorem State.inRead_cases (s : State) (i : Nat) (k : Byte → State) :
    (i < windowSize s.cfg ∧ s.inRead i k = .next (k (memRead s.inMsg i))) ∨
      (¬ i < windowSize s.cfg ∧ s.inRead i k = .fault .windowOutOfRange) := by
  unfold State.inRead
  split
  · exact .inl ⟨‹_›, rfl⟩
  · exact .inr ⟨‹_›, rfl⟩

end Sys2Proof.Machine
end

