-- ==== Sys2Proof/Laws/Frame.lean ====
section
/-! SUPPORT. What one atomic step of the engine leaves alone: the fields no command writes, the fields only some
commands write, and the command it belongs to. -/

namespace Sys2Proof.Machine

/-- The commands that share positions: TSTART and TEXPIRED, the three queries, INIT and LRESET, SEND, RECV. -/
inductive Owner
  | timer
  | query
  | link
  | send
  | recv
  deriving DecidableEq, Repr

/-- The command a wait belongs to. -/
def Wait.owner : Wait → Owner
  | .initReady => .link
  | .sendRoom _ => .send
  | .recvHeader _ => .recv
  | .recvWord _ _ => .recv
  | .resetAccepted => .link
  | .resetReady => .link
  | .hsIdle _ => .link
  | .hsAck _ => .link
  | .dbIdle _ => .send
  | .dbDone _ => .send
  | .dbAck _ => .send
  | .dbEvent _ => .recv

/-- The command a position belongs to. -/
def Pos.owner : Pos → Owner
  | .tstartNow _ => .timer
  | .texpiredNow _ => .timer
  | .queryA _ => .query
  | .queryB _ _ => .query
  | .gateA _ => .send
  | .gateB _ _ => .send
  | .gateGroup _ _ => .send
  | .gateCommand _ _ _ => .send
  | .pollStart w => w.owner
  | .pollCond w _ => w.owner
  | .pollNow w _ => w.owner
  | .initWrite => .link
  | .sendHeader _ => .send
  | .sendByte _ _ _ _ => .send
  | .sendWord _ _ _ => .send
  | .sendNotify _ => .send
  | .sendCheck _ => .send
  | .recvPopHeader _ => .recv
  | .recvPopWord _ _ => .recv
  | .recvByte _ _ _ _ => .recv
  | .recvCheck _ _ => .recv
  | .lresetBegin => .link
  | .lresetEnd => .link
  | .hsClearIn _ => .link
  | .hsHostReady _ => .link
  | .hsRefclk _ => .link
  | .hsLoaded _ => .link
  | .hsReady _ => .link
  | .hsPayload _ _ => .link
  | .hsRing _ => .link
  | .hsAckClear _ => .link
  | .dbHeader _ _ => .send
  | .dbRead _ _ => .send
  | .dbWrite _ _ _ => .send
  | .dbRing _ => .send
  | .dbAckClear _ => .send
  | .dbInHeader _ _ _ _ => .recv
  | .dbInRead _ _ _ => .recv
  | .dbInWrite _ _ _ _ => .recv
  | .dbInClear _ _ => .recv

/-- The command the engine is in has ended, or it is still this one. -/
def State.endedOr (t : State) (o : Owner) : Prop := t.seq = .idle ∨ ∃ p, t.seq = .busy p ∧ p.owner = o

/-- What an engine step of a command of owner `o` leaves alone. -/
structure Frame (o : Owner) (s t : State) : Prop where
  cfg : t.cfg = s.cfg
  counter : t.counter = s.counter
  stsA : t.stsA = s.stsA
  stsB : t.stsB = s.stsB
  inMsg : t.inMsg = s.inMsg
  cmd : t.cmd = s.cmd
  arg0 : t.arg0 = s.arg0
  arg1 : t.arg1 = s.arg1
  env : t.env = s.env
  client : t.client = s.client
  owner : t.endedOr o
  rxring : o ≠ .recv → t.rxring = s.rxring ∧ t.ccsr = s.ccsr ∧ t.msgbuf = s.msgbuf ∧ t.res2 = s.res2 ∧ t.draws = s.draws
  results : o = .link ∨ o = .send → t.res0 = s.res0 ∧ t.res1 = s.res1
  txring : o ≠ .send → t.txring = s.txring
  hcsr : o = .timer ∨ o = .query ∨ o = .recv →
    t.hcsr = s.hcsr ∧ t.dbOut = s.dbOut ∧ t.outMsg = s.outMsg
  comm : o ≠ .link → t.comm = s.comm ∧ t.refclk = s.refclk
  link : o = .timer ∨ o = .query → t.lstate = s.lstate ∧ t.resync = s.resync ∧ t.dbIn = s.dbIn ∧ t.trace = s.trace

/-- The end of a wait: the fields it leaves alone. -/
theorem waitEnd_frame (s : State) (r : PollEnd) (w : Wait) {o : Owner} (ho : w.owner = o) :
    Frame o s (waitEnd s r w) := by
  cases w <;> cases r
  all_goals
    dsimp only [Wait.owner] at ho
    subst ho
    try simp only [waitEnd, initReadyEnd, sendRoomEnd, recvHeaderEnd, recvWordEnd, resetAcceptedEnd, resetReadyEnd,
      hsIdleEnd, hsAckEnd, dbIdleEnd, dbDoneEnd, dbAckEnd, dbEventEnd, hsRound, hsRoundEnd, hsAwait]
    try (repeat' split)
  all_goals
    refine ⟨rfl, rfl, rfl, rfl, rfl, rfl, rfl, rfl, rfl, rfl, ?_, ?_, ?_, ?_, ?_, ?_, ?_⟩
    first
    | exact .inl rfl
    | exact .inr ⟨_, rfl, rfl⟩
    all_goals
      first
      | exact fun h => absurd rfl h
      | exact fun h => absurd h (by decide)
      | exact fun _ => ⟨rfl, rfl, rfl, rfl, rfl⟩
      | exact fun _ => ⟨rfl, rfl, rfl, rfl⟩
      | exact fun _ => ⟨rfl, rfl, rfl⟩
      | exact fun _ => ⟨rfl, rfl⟩
      | exact fun _ => rfl

/-- Going to a position of the same command: the fields it leaves alone. -/
theorem goto_frame (s : State) (p : Pos) {o : Owner} (ho : p.owner = o) : Frame o s (s.goto p) :=
  ⟨rfl, rfl, rfl, rfl, rfl, rfl, rfl, rfl, rfl, rfl, .inr ⟨_, rfl, ho⟩, fun _ => ⟨rfl, rfl, rfl, rfl, rfl⟩,
    fun _ => ⟨rfl, rfl⟩, fun _ => rfl, fun _ => ⟨rfl, rfl, rfl⟩, fun _ => ⟨rfl, rfl⟩, fun _ => ⟨rfl, rfl, rfl, rfl⟩⟩

/-- A step of a poll: the fields it leaves alone. -/
theorem pollCond_frame (s : State) (w : Wait) (t : Timer) {o : Owner} (ho : w.owner = o) :
    Frame o s (pollCond s w t) := by
  rcases pollCond_cases s w t with ⟨-, e⟩ | ⟨-, e⟩ | ⟨c, -, e⟩ <;> rw [e]
  · exact goto_frame s _ ho
  · exact waitEnd_frame s _ w ho
  · exact waitEnd_frame s _ w ho

/-- The expiry test of a poll: the fields it leaves alone. -/
theorem pollNow_frame (s : State) (w : Wait) (t : Timer) {o : Owner} (ho : w.owner = o) :
    Frame o s (pollNow s w t) := by
  rcases pollNow_cases s w t with ⟨-, e⟩ | ⟨-, e⟩ <;> rw [e]
  · exact waitEnd_frame s _ w ho
  · exact goto_frame s _ ho

/-- The end of the gate: the fields it leaves alone. -/
theorem gateEnd_frame (s : State) (g : GateCtx) (p : Path) (cat : Nat) :
    Frame .send s (gateEnd s g p cat) := by
  try simp only [gateEnd, sendBegin, txSendBegin, dbSendBegin]
  try (repeat' split)
  all_goals
    refine ⟨rfl, rfl, rfl, rfl, rfl, rfl, rfl, rfl, rfl, rfl, ?_, ?_, ?_, ?_, ?_, ?_, ?_⟩
    first
    | exact .inl rfl
    | exact .inr ⟨_, rfl, rfl⟩
    all_goals
      first
      | exact fun h => absurd rfl h
      | exact fun h => absurd h (by decide)
      | exact fun _ => ⟨rfl, rfl, rfl, rfl, rfl⟩
      | exact fun _ => ⟨rfl, rfl, rfl, rfl⟩
      | exact fun _ => ⟨rfl, rfl, rfl⟩
      | exact fun _ => ⟨rfl, rfl⟩
      | exact fun _ => rfl

/-- A step of SEND: the fields it leaves alone. -/
theorem engineAct_frame_send {s t : State} {p : Pos} (ho : p.owner = .send) (h : engineAct s p = .next t) :
    Frame .send s t := by
  cases p
  case pollStart w => cases h; exact goto_frame s _ ho
  case pollCond w tm => cases h; exact pollCond_frame s w tm ho
  case pollNow w tm => cases h; exact pollNow_frame s w tm ho
  case gateB g a =>
    cases h
    unfold gateB
    dsimp only
    split
    · exact goto_frame s _ rfl
    · exact gateEnd_frame s g _ _
  case gateCommand g x y => cases h; exact gateEnd_frame s g _ _
  all_goals
    dsimp only [Pos.owner] at ho
    try contradiction
  all_goals
    simp only [engineAct, dbHeader, dbWrite, State.outWrite] at h
    (repeat' split at h) <;> cases h
  all_goals
    try simp only [sendHeader, sendByte, sendWord, sendNotify, sendCheck, dbRing,
      dbAckClear, txSendNext, sendNextWord, dbSendNext, dbNextByte]
    try (repeat' split)
  all_goals
    refine ⟨rfl, rfl, rfl, rfl, rfl, rfl, rfl, rfl, rfl, rfl, ?_, ?_, ?_, ?_, ?_, ?_, ?_⟩
    first
    | exact .inl rfl
    | exact .inr ⟨_, rfl, rfl⟩
    all_goals
      first
      | exact fun h => absurd rfl h
      | exact fun h => absurd h (by decide)
      | exact fun _ => ⟨rfl, rfl, rfl, rfl, rfl⟩
      | exact fun _ => ⟨rfl, rfl, rfl, rfl⟩
      | exact fun _ => ⟨rfl, rfl, rfl⟩
      | exact fun _ => ⟨rfl, rfl⟩
      | exact fun _ => rfl

/-- A step of RECV: the fields it leaves alone. -/
theorem engineAct_frame_recv {s t : State} {p : Pos} (ho : p.owner = .recv) (h : engineAct s p = .next t) :
    Frame .recv s t := by
  cases p
  case pollStart w => cases h; exact goto_frame s _ ho
  case pollCond w tm => cases h; exact pollCond_frame s w tm ho
  case pollNow w tm => cases h; exact pollNow_frame s w tm ho
  all_goals
    dsimp only [Pos.owner] at ho
    try contradiction
  all_goals
    simp only [engineAct, dbInHeader, dbInRead, State.inRead] at h
    (repeat' split at h) <;> cases h
  all_goals
    try simp only [recvPopHeader, recvPopWord, recvByte, recvCheck, dbInWrite, dbInClear,
      recvNextWord, recvNextByte, dbInNextByte, dbInCheck]
    try (repeat' split)
  all_goals
    refine ⟨rfl, rfl, rfl, rfl, rfl, rfl, rfl, rfl, rfl, rfl, ?_, ?_, ?_, ?_, ?_, ?_, ?_⟩
    first
    | exact .inl rfl
    | exact .inr ⟨_, rfl, rfl⟩
    all_goals
      first
      | exact fun h => absurd rfl h
      | exact fun h => absurd h (by decide)
      | exact fun _ => ⟨rfl, rfl, rfl, rfl, rfl⟩
      | exact fun _ => ⟨rfl, rfl, rfl, rfl⟩
      | exact fun _ => ⟨rfl, rfl, rfl⟩
      | exact fun _ => ⟨rfl, rfl⟩
      | exact fun _ => rfl

/-- The last register write before the first round: the fields it leaves alone. -/
theorem hsReady_frame (s : State) (h : HsCtx) : Frame .link s (hsReady s h) := by
  simp only [hsReady, hsRound]
  split
  all_goals
    refine ⟨rfl, rfl, rfl, rfl, rfl, rfl, rfl, rfl, rfl, rfl, ?_, fun _ => ⟨rfl, rfl, rfl, rfl, rfl⟩,
      fun _ => ⟨rfl, rfl⟩, fun _ => rfl, fun h => absurd h (by decide), fun h => absurd rfl h,
      fun h => absurd h (by decide)⟩
    first
    | exact .inl rfl
    | exact .inr ⟨_, rfl, rfl⟩

/-- The end of a wait for an event of the handshake: the fields it leaves alone. -/
theorem hsAckClear_frame (s : State) (h : HsCtx) : Frame .link s (hsAckClear s h) := by
  simp only [hsAckClear, hsAwait, hsRoundEnd, hsRound]
  repeat' split
  all_goals
    refine ⟨rfl, rfl, rfl, rfl, rfl, rfl, rfl, rfl, rfl, rfl, ?_, fun _ => ⟨rfl, rfl, rfl, rfl, rfl⟩,
      fun _ => ⟨rfl, rfl⟩, fun _ => rfl, fun h => absurd h (by decide), fun h => absurd rfl h,
      fun h => absurd h (by decide)⟩
    first
    | exact .inl rfl
    | exact .inr ⟨_, rfl, rfl⟩

/-- A byte of the payload of the handshake: the fields it leaves alone. -/
theorem hsPayload_frame {s t : State} {h : HsCtx} {k : Nat} (e : hsPayload s h k = .next t) : Frame .link s t := by
  simp only [hsPayload, State.outWrite] at e
  (repeat' split at e) <;> cases e
  all_goals try (repeat' split)
  all_goals
    refine ⟨rfl, rfl, rfl, rfl, rfl, rfl, rfl, rfl, rfl, rfl, ?_, fun _ => ⟨rfl, rfl, rfl, rfl, rfl⟩,
      fun _ => ⟨rfl, rfl⟩, fun _ => rfl, fun h => absurd h (by decide), fun h => absurd rfl h,
      fun h => absurd h (by decide)⟩
    first
    | exact .inl rfl
    | exact .inr ⟨_, rfl, rfl⟩

/-- A step of INIT or LRESET: the fields it leaves alone. -/
theorem engineAct_frame_link {s t : State} {p : Pos} (ho : p.owner = .link) (h : engineAct s p = .next t) :
    Frame .link s t := by
  cases p
  case pollStart w => cases h; exact goto_frame s _ ho
  case pollCond w tm => cases h; exact pollCond_frame s w tm ho
  case pollNow w tm => cases h; exact pollNow_frame s w tm ho
  case hsReady x => cases h; exact hsReady_frame s x
  case hsAckClear x => cases h; exact hsAckClear_frame s x
  case hsPayload x k => exact hsPayload_frame h
  all_goals
    dsimp only [Pos.owner] at ho
    try contradiction
  all_goals
    cases h
  all_goals
    refine ⟨rfl, rfl, rfl, rfl, rfl, rfl, rfl, rfl, rfl, rfl, ?_, fun _ => ⟨rfl, rfl, rfl, rfl, rfl⟩,
      fun _ => ⟨rfl, rfl⟩, fun _ => rfl, fun h => absurd h (by decide), fun h => absurd rfl h,
      fun h => absurd h (by decide)⟩
    first
    | exact .inl rfl
    | exact .inr ⟨_, rfl, rfl⟩

/-- A step of TSTART or TEXPIRED: the fields it leaves alone. -/
theorem engineAct_frame_timer {s t : State} {p : Pos} (ho : p.owner = .timer) (h : engineAct s p = .next t) :
    Frame .timer s t := by
  cases p
  case pollStart w => cases h; exact goto_frame s _ ho
  case pollCond w tm => cases h; exact pollCond_frame s w tm ho
  case pollNow w tm => cases h; exact pollNow_frame s w tm ho
  all_goals
    dsimp only [Pos.owner] at ho
    try contradiction
  all_goals
    cases h
  all_goals
    try simp only [tstartNow, texpiredNow]
    try (repeat' split)
  all_goals
    refine ⟨rfl, rfl, rfl, rfl, rfl, rfl, rfl, rfl, rfl, rfl, ?_, ?_, ?_, ?_, ?_, ?_, ?_⟩
    first
    | exact .inl rfl
    | exact .inr ⟨_, rfl, rfl⟩
    all_goals
      first
      | exact fun h => absurd rfl h
      | exact fun h => absurd h (by decide)
      | exact fun _ => ⟨rfl, rfl, rfl, rfl, rfl⟩
      | exact fun _ => ⟨rfl, rfl, rfl, rfl⟩
      | exact fun _ => ⟨rfl, rfl, rfl⟩
      | exact fun _ => ⟨rfl, rfl⟩
      | exact fun _ => rfl

/-- A step of a query: the fields it leaves alone. -/
theorem engineAct_frame_query {s t : State} {p : Pos} (ho : p.owner = .query) (h : engineAct s p = .next t) :
    Frame .query s t := by
  cases p
  case pollStart w => cases h; exact goto_frame s _ ho
  case pollCond w tm => cases h; exact pollCond_frame s w tm ho
  case pollNow w tm => cases h; exact pollNow_frame s w tm ho
  all_goals
    dsimp only [Pos.owner] at ho
    try contradiction
  all_goals
    cases h
  all_goals
    try simp only [queryB, queryResult]
    try (repeat' split)
  all_goals
    refine ⟨rfl, rfl, rfl, rfl, rfl, rfl, rfl, rfl, rfl, rfl, ?_, ?_, ?_, ?_, ?_, ?_, ?_⟩
    first
    | exact .inl rfl
    | exact .inr ⟨_, rfl, rfl⟩
    all_goals
      first
      | exact fun h => absurd rfl h
      | exact fun h => absurd h (by decide)
      | exact fun _ => ⟨rfl, rfl, rfl, rfl, rfl⟩
      | exact fun _ => ⟨rfl, rfl, rfl, rfl⟩
      | exact fun _ => ⟨rfl, rfl, rfl⟩
      | exact fun _ => ⟨rfl, rfl⟩
      | exact fun _ => rfl

/-- One atomic step of the engine: the fields it leaves alone, by the command it belongs to. -/
theorem engineAct_frame {s t : State} {p : Pos} {o : Owner} (ho : p.owner = o) (h : engineAct s p = .next t) :
    Frame o s t := by
  cases o
  · exact engineAct_frame_timer ho h
  · exact engineAct_frame_query ho h
  · exact engineAct_frame_link ho h
  · exact engineAct_frame_send ho h
  · exact engineAct_frame_recv ho h

end Sys2Proof.Machine
end

