-- ==== Sys2Proof/Laws/Execution.lean ====
section
/-! SUPPORT. Executions in atomic steps: the start of a command, what every step keeps, and putting two together. -/

namespace Sys2Proof.Machine

/-- A command is run from its first position. -/
theorem exec_eq_run (i : Instr) (s : State) : exec i s = runCommand (beginCommand i s) := by cases i <;> rfl

/-- `Now()` answers a counter value (40_timer.md R110). -/
theorem now_lt (s : State) : s.now < 2 ^ s.cfg.cw := Nat.mod_lt _ (Nat.two_pow_pos _)

/-- In a state whose counter is in its range, `Now()` is the counter (10_state.md R22). -/
theorem now_eq {s : State} (h : s.counter.toNat < 2 ^ s.cfg.cw) : s.now = s.counter.toNat := Nat.mod_eq_of_lt h

/-- The counter at reset is the draw, in the counter's range (10_state.md R22, R45). -/
theorem created_counter (c : Config) (d : ResetDraws) :
    (State.created c d).counter.toNat = d.counter.toNat % 2 ^ c.cw := by
  show (BitVec.ofNat 32 _).toNat = _
  rw [BitVec.toNat_ofNat, Nat.mod_eq_of_lt]
  exact Nat.lt_of_le_of_lt (Nat.mod_le _ _) d.counter.isLt

/-- Where a command starts, the configuration is as before. -/
@[simp] theorem beginCommand_cfg (i : Instr) (s : State) : (beginCommand i s).cfg = s.cfg := by
  cases i <;>
    simp only [beginCommand, beginTstart, beginTexpired, beginInit, beginSend, beginRecv, beginLreset, beginQuery] <;>
    (repeat' split) <;> rfl

@[simp] theorem clientMove_cfg (s : State) (m : ClientMove) : (s.clientMove m).cfg = s.cfg := by
  cases m <;> simp only [State.clientMove]
  case skipUnless => split <;> rfl
  all_goals rfl

/-- No step of an execution changes the configuration. -/
theorem Execution.cfg {s t : State} {τs : List EnvTurn} (h : Execution s τs t) : t.cfg = s.cfg := by
  induction h with
  | done => rfl
  | turn m _ ih => rw [ih]; exact State.envMove_cfg _ _
  | engine _ hs _ ih => rw [ih]; exact (engineAct_frame rfl hs).cfg
  | start _ _ _ ih => rw [ih]; exact beginCommand_cfg _ _
  | illegal _ _ _ ih => rw [ih]; rfl
  | client m _ _ ih => rw [ih]; exact clientMove_cfg _ _

/-- One execution after another. -/
theorem Execution.trans {s t u : State} {τs σs : List EnvTurn} (h : Execution s τs t) (k : Execution t σs u) :
    Execution s (τs ++ σs) u := by
  induction h with
  | done => exact k
  | turn m _ ih => exact .turn m (ih k)
  | engine hp hs _ ih => exact .engine hp hs (ih k)
  | start hs hd _ ih => exact .start hs hd (ih k)
  | illegal hs hd _ ih => exact .illegal hs hd (ih k)
  | client m hs _ ih => exact .client m hs (ih k)

end Sys2Proof.Machine
end

