-- ==== Sys2Proof/Laws/Memory.lean ====
section
/-! SUPPORT. The laws of byte memory: a read after a write, the canonical form, equality of canonical memories. -/

namespace Sys2Proof.Machine

@[simp] theorem memRead_nil (a : Nat) : memRead [] a = unlistedByte := rfl

/-- A cell in front answers its own address only. -/
theorem memRead_cons (b : Nat) (v : Byte) (m : Memory) (a : Nat) :
    memRead ((b, v) :: m) a = if a = b then v else memRead m a := rfl

/-- Above every cell's address and below the first, a canonical memory is unlisted. -/
theorem memRead_of_le {lo : Nat} {m : Memory} (h : Memory.wfAbove (some lo) m = true) {a : Nat} (ha : a ≤ lo) :
    memRead m a = unlistedByte := by
  induction m generalizing lo with
  | nil => rfl
  | cons c m ih =>
    obtain ⟨b, v⟩ := c
    simp only [Memory.wfAbove, Bool.and_eq_true, decide_eq_true_eq] at h
    rw [memRead_cons, if_neg (by omega), ih h.2 (by omega)]

/-- A canonical memory stays canonical under a lower bound. -/
theorem Memory.wfAbove_mono {lo hi : Nat} (h : lo ≤ hi) {m : Memory} (hm : Memory.wfAbove (some hi) m = true) :
    Memory.wfAbove (some lo) m = true := by
  cases m with
  | nil => rfl
  | cons c m =>
    obtain ⟨b, v⟩ := c
    simp only [Memory.wfAbove, Bool.and_eq_true, decide_eq_true_eq] at hm ⊢
    exact ⟨⟨by omega, hm.1.2⟩, hm.2⟩

/-- A canonical memory is canonical above any bound that lies below its first cell. -/
theorem Memory.wfAbove_none {m : Memory} {lo : Nat} (h : Memory.wfAbove (some lo) m = true) :
    Memory.wfAbove none m = true := by
  cases m with
  | nil => rfl
  | cons c m =>
    obtain ⟨b, v⟩ := c
    simp only [Memory.wfAbove, Bool.and_eq_true] at h ⊢
    exact ⟨⟨trivial, h.1.2⟩, h.2⟩

/-- A write keeps the canonical form above a bound below the address written. -/
theorem memWrite_wfAbove {lo : Option Nat} {m : Memory} {a : Nat} {v : Byte}
    (h : Memory.wfAbove lo m = true) (ha : ∀ b, lo = some b → b < a) : Memory.wfAbove lo (memWrite m a v) = true := by
  induction m generalizing lo with
  | nil =>
    unfold memWrite
    split
    · rfl
    · cases lo with
      | none => simpa [Memory.wfAbove] using ‹_›
      | some b => simpa [Memory.wfAbove] using ⟨ha b rfl, ‹_›⟩
  | cons c m ih =>
    obtain ⟨b, w⟩ := c
    have hlo : Memory.wfAbove lo [(a, 1)] = true := by
      cases lo with
      | none => rfl
      | some d => simpa [Memory.wfAbove, unlistedByte] using ha d rfl
    unfold memWrite
    simp only [Memory.wfAbove, Bool.and_eq_true, decide_eq_true_eq] at h hlo
    split
    · split
      · simpa [Memory.wfAbove] using h
      · simp only [Memory.wfAbove, Bool.and_eq_true, decide_eq_true_eq]
        exact ⟨⟨hlo.1.1, ‹_›⟩, ⟨‹_›, h.1.2⟩, h.2⟩
    · split
      · subst_vars
        split
        · cases lo with
          | none => exact Memory.wfAbove_none h.2
          | some d => exact Memory.wfAbove_mono (by simpa using Nat.le_of_lt (ha d rfl)) h.2
        · simp only [Memory.wfAbove, Bool.and_eq_true, decide_eq_true_eq]
          exact ⟨⟨h.1.1, ‹_›⟩, h.2⟩
      · simp only [Memory.wfAbove, Bool.and_eq_true, decide_eq_true_eq]
        exact ⟨h.1, ih h.2 (by rintro d hd; cases hd; omega)⟩

/-- A write keeps the canonical form. -/
theorem memWrite_wf {m : Memory} (h : m.wf = true) (a : Nat) (v : Byte) : Memory.wf (memWrite m a v) = true :=
  memWrite_wfAbove h (by simp)

/-- A read after a write: the value written at its address, the old value elsewhere. Above a bound. -/
theorem memRead_memWrite_above {lo : Option Nat} {m : Memory} (h : Memory.wfAbove lo m = true) (a : Nat) (v : Byte)
    (k : Nat) : memRead (memWrite m a v) k = if k = a then v else memRead m k := by
  induction m generalizing lo with
  | nil =>
    unfold memWrite
    split
    · split <;> simp_all
    · simp [memRead_cons]
  | cons c m ih =>
    obtain ⟨b, w⟩ := c
    simp only [Memory.wfAbove, Bool.and_eq_true, decide_eq_true_eq] at h
    have hb : ∀ j, j ≤ b → memRead m j = unlistedByte := fun j hj => memRead_of_le h.2 hj
    unfold memWrite
    split
    · split
      · by_cases hk : k = a
        · subst hk
          rw [if_pos rfl, memRead_cons, if_neg (by omega), hb k (by omega)]
          exact Eq.symm ‹_›
        · rw [if_neg hk]
      · rw [memRead_cons]
    · split
      · subst_vars
        split
        · by_cases hk : k = b
          · subst hk
            rw [if_pos rfl, hb k (Nat.le_refl k)]
            exact Eq.symm ‹_›
          · rw [if_neg hk, memRead_cons, if_neg hk]
        · rw [memRead_cons, memRead_cons]
          split <;> simp_all
      · rw [memRead_cons, memRead_cons, ih h.2]
        split <;> split <;> first | rfl | omega

/-- A read after a write: the value written at its address, the old value elsewhere. -/
theorem memRead_memWrite {m : Memory} (h : m.wf = true) (a : Nat) (v : Byte) (k : Nat) :
    memRead (memWrite m a v) k = if k = a then v else memRead m k :=
  memRead_memWrite_above h a v k

/-- Canonical memories that read the same are equal. -/
theorem Memory.ext_of_above {lo : Option Nat} {m m' : Memory} (h : Memory.wfAbove lo m = true)
    (h' : Memory.wfAbove lo m' = true) (e : ∀ a, memRead m a = memRead m' a) : m = m' := by
  induction m generalizing lo m' with
  | nil =>
    cases m' with
    | nil => rfl
    | cons c m' =>
      obtain ⟨b, v⟩ := c
      simp only [Memory.wfAbove, Bool.and_eq_true, decide_eq_true_eq] at h'
      have := e b
      simp only [memRead_nil, memRead_cons, if_pos] at this
      exact absurd this.symm h'.1.2
  | cons c m ih =>
    obtain ⟨b, v⟩ := c
    simp only [Memory.wfAbove, Bool.and_eq_true, decide_eq_true_eq] at h
    cases m' with
    | nil =>
      have := e b
      simp only [memRead_nil, memRead_cons, if_pos] at this
      exact absurd this h.1.2
    | cons c' m' =>
      obtain ⟨b', v'⟩ := c'
      simp only [Memory.wfAbove, Bool.and_eq_true, decide_eq_true_eq] at h'
      have hbb : b = b' := by
        rcases Nat.lt_trichotomy b b' with hlt | heq | hgt
        · have := e b
          rw [memRead_cons, memRead_cons, if_pos rfl, if_neg (by omega), memRead_of_le h'.2 (by omega)] at this
          exact absurd this h.1.2
        · exact heq
        · have := e b'
          rw [memRead_cons, memRead_cons, if_pos rfl, if_neg (by omega), memRead_of_le h.2 (by omega)] at this
          exact absurd this.symm h'.1.2
      subst hbb
      have hv : v = v' := by
        have := e b
        simpa [memRead_cons] using this
      subst hv
      have : m = m' := by
        refine ih h.2 h'.2 fun a => ?_
        by_cases ha : a = b
        · subst ha
          rw [memRead_of_le h.2 (Nat.le_refl a), memRead_of_le h'.2 (Nat.le_refl a)]
        · have := e a
          rwa [memRead_cons, memRead_cons, if_neg ha, if_neg ha] at this
      rw [this]

/-- Canonical memories that read the same are equal. -/
theorem Memory.ext_of_wf {m m' : Memory} (h : m.wf = true) (h' : m'.wf = true)
    (e : ∀ a, memRead m a = memRead m' a) : m = m' :=
  Memory.ext_of_above h h' e

/-- The cells of a memory after a write lie where they lay or at the address written. -/
theorem mem_memWrite {m : Memory} {a : Nat} {v : Byte} {c : Host.Cell} (h : c ∈ memWrite m a v) :
    c ∈ m ∨ c = (a, v) := by
  induction m with
  | nil =>
    unfold memWrite at h
    split at h <;> simp_all
  | cons d m ih =>
    obtain ⟨b, w⟩ := d
    unfold memWrite at h
    split at h
    · split at h <;> simp_all <;> tauto
    · split at h
      · split at h <;> simp_all <;> tauto
      · rcases List.mem_cons.1 h with h | h
        · exact .inl (List.mem_cons.2 (.inl h))
        · rcases ih h with h | h
          · exact .inl (List.mem_cons.2 (.inr h))
          · exact .inr h

/-- `memBytes` has the length asked for. -/
@[simp] theorem memBytes_length (m : Memory) (n : Nat) : (memBytes m n).length = n := by simp [memBytes]

/-- Byte `k` of `memBytes`. -/
theorem memBytes_getElem (m : Memory) (n k : Nat) (h : k < (memBytes m n).length) :
    (memBytes m n)[k] = memRead m k := by simp [memBytes]

end Sys2Proof.Machine
end

