-- ==== Sys2Proof/Laws/PerInstr.lean ====
section
/-! SUPPORT. What holds of each command as syntax, one lemma for each constructor. -/

namespace Sys2Proof.Laws

/-- The row of the opcode map (30_encoding.md R95) of a command: mask and match. -/
def rowOf : Instr → Word × Word
  | .tstart => (maskN, 0x00000001)
  | .texpired => (maskN, 0x00000002)
  | .init => (maskN, 0x00000010)
  | .send _ _ => (maskX, 0x00000011)
  | .recv _ => (maskR, 0x00000012)
  | .lreset => (maskN, 0x00000013)
  | .classify => (maskN, 0x00000020)
  | .hidemask => (maskN, 0x00000021)
  | .allowmask => (maskN, 0x00000022)

/-- The word of a command selects the command's own row, its opcode is one of the nine, and its operand fields are the
command's operands (30_encoding.md R93, R95). -/
def Encoded.Statement (i : Instr) : Prop :=
  i.wf = true → selects (encode i) (rowOf i).1 (rowOf i).2 = true ∧ opcodes.contains (cmdOpc (encode i)) = true ∧
    match i with
    | .send a b => cmdA (encode i) = a ∧ cmdB (encode i) = b
    | .recv blk => cmdBlk (encode i) = blk
    | _ => True

theorem Encoded.tstart : Encoded.Statement .tstart := fun _ => by decide

theorem Encoded.texpired : Encoded.Statement .texpired := fun _ => by decide

theorem Encoded.init : Encoded.Statement .init := fun _ => by decide

/-- The word of a SEND, field by field. -/
theorem send_word (a b : Byte) :
    encode (.send a b) &&& maskX = 0x00000011 ∧ cmdOpc (encode (.send a b)) = 0x11 ∧
      cmdA (encode (.send a b)) = a ∧ cmdB (encode (.send a b)) = b := by
  refine ⟨?_, ?_, ?_, ?_⟩ <;> ext k hk <;> simp [encode, maskX, cmdOpc, cmdA, cmdB] <;> interval_cases k <;> simp

theorem Encoded.send (a b : Byte) : Encoded.Statement (.send a b) := fun _ => by
  obtain ⟨h, ho, ha, hb⟩ := send_word a b
  exact ⟨by simp [selects, rowOf, h], by rw [ho]; decide, ha, hb⟩

theorem Encoded.recv (blk : Bool) : Encoded.Statement (.recv blk) := fun _ => by revert blk; decide

theorem Encoded.lreset : Encoded.Statement .lreset := fun _ => by decide

theorem Encoded.classify : Encoded.Statement .classify := fun _ => by decide

theorem Encoded.hidemask : Encoded.Statement .hidemask := fun _ => by decide

theorem Encoded.allowmask : Encoded.Statement .allowmask := fun _ => by decide

end Sys2Proof.Laws
end

