-- ==== Sys2Proof/Laws/Port.lean ====
section
/-! SUPPORT. The optional register map (20_memory.md R65): each offset names one thing, and the two ring windows are the
ring accesses. -/

namespace Sys2Proof.Machine

theorem Reg.mem_all (r : Reg) : r ∈ Reg.all := by cases r <;> decide

/-- The offset of a register names that register. -/
@[simp] theorem mapTarget_offset (r : Reg) : mapTarget r.offset = some (.reg r) := by cases r <;> decide

/-- Different registers have different offsets. -/
theorem Reg.offset_injective {r q : Reg} (h : r.offset = q.offset) : r = q := by
  have e := mapTarget_offset r
  rw [h, mapTarget_offset] at e
  cases e
  rfl

/-- The offsets `0x100` to `0x2FF` name the bytes of `OUT_MSG`. -/
theorem mapTarget_outMsg {i : Nat} (h : i < 512) : mapTarget (outMsgOffset + i) = some (.outMsg i) := by
  unfold mapTarget outMsgOffset outMsgLast
  rw [if_pos ⟨by omega, by omega⟩, Nat.add_sub_cancel_left]

/-- The offsets `0x300` to `0x4FF` name the bytes of `IN_MSG`. -/
theorem mapTarget_inMsg {i : Nat} (h : i < 512) : mapTarget (inMsgOffset + i) = some (.inMsg i) := by
  unfold mapTarget outMsgOffset outMsgLast inMsgOffset inMsgLast
  rw [if_neg (by omega), if_pos ⟨by omega, by omega⟩, Nat.add_sub_cancel_left]

/-- A write of `TXWIN` is `TxPush`. -/
@[simp] theorem mapWrite_txwin (s : State) (w : Word) : s.mapWrite .txwin w = some (s.txPush w) := rfl

/-- `TXWIN` is write-only. -/
@[simp] theorem mapRead_txwin (s : State) : s.mapRead .txwin = none := rfl

/-- A read of `RXWIN` is `RxPop`. -/
@[simp] theorem mapRead_rxwin (s : State) : s.mapRead .rxwin = some (s.rxFront, s.rxPop) := rfl

/-- `RXWIN` is read-only. -/
@[simp] theorem mapWrite_rxwin (s : State) (w : Word) : s.mapWrite .rxwin w = none := rfl

/-- `LSTATE` is read-only. -/
@[simp] theorem mapWrite_lstate (s : State) (w : Word) : s.mapWrite .lstate w = none := rfl

/-- A read of any register but the ring windows answers it and changes nothing. -/
theorem mapRead_eq (s : State) {r : Reg} (hr : r ≠ .rxwin) : s.mapRead r = (s.regRead r).map fun w => (w, s) := by
  cases r <;> first | rfl | exact absurd rfl hr

/-- Bit 2 of `LSTATE` is `RESYNC`. -/
theorem mapRead_lstate_resync (s : State) :
    (s.mapRead .lstate).map (fun x => x.1.getLsbD 2) = some s.resync := by
  obtain ⟨l, r, h⟩ : ∃ l r, l = s.lstate ∧ r = s.resync := ⟨_, _, rfl, rfl⟩
  simp only [State.mapRead, State.regRead, Option.map_some, ← h.1, ← h.2]
  cases l <;> cases r <;> rfl

end Sys2Proof.Machine
end

