-- ==== Sys2Proof/Tests/Slice0.lean ====
section
/-! SUPPORT. Tests with the values of spec/95_test_vectors.md, and a state and operands that meet the hypotheses of
each statement that has any. -/

namespace Sys2Proof.Tests
open Sys2Proof.Machine

set_option Elab.async false

/-! ### Helpers -/

/-- The default instance of 95_test_vectors.md section 0. -/
def std : Config := Config.standard

/-- The same with the doorbell transport. -/
def bell : Config := { std with kind := .doorbell }

/-- The instance `c` right after reset. -/
def fresh (c : Config) : State := State.created c ResetDraws.zero

/-- The ready state of 95_test_vectors.md section 0. -/
def ready (c : Config) : State :=
  { fresh c with
    lstate := .ready
    hcsr := { wp := 0, rp := 0, depth := c.hdepth, rst := false, rdy := true, ig := true, is := false }
    ccsr := { wp := 0, rp := 0, depth := c.cdepth, rst := false, rdy := true, ig := false, is := false } }

/-- The client's writes of a command are made. -/
def poke (s : State) (c : ClientCommand) : State := c.moves.foldl State.clientMove s

/-- `STALL`, for 20 engine steps. -/
def stall : List (List EnvMove) := [] :: List.replicate 20 [.ticks 1000000]

/-- `STALL` that begins after eight engine steps. -/
def slowStall : List (List EnvMove) := List.replicate 8 [] ++ stall

/-- The outcome is a next state with the property. -/
def gives (o : Outcome) (p : State → Bool) : Bool :=
  match o with
  | .next t => p t
  | .fault _ => false
  | .refused _ => false

theorem gives_next {o : Outcome} {p : State → Bool} (h : gives o p = true) : ∃ t, o = .next t ∧ p t = true := by
  cases o with
  | next t => exact ⟨t, rfl, h⟩
  | fault _ => cases h
  | refused _ => cases h

/-- A state in which `CMD` has just been written with the word. -/
def issued (w : Word) : State := (ready std).writeCmd w

/-- A message of five bytes (vector T1). -/
def five : Memory := [(0, 1), (1, 2), (2, 3), (3, 4), (4, 5)]

/-! ### Well-formedness: every check refuses a term -/

theorem test_standard_wf : std.wf = true ∧ bell.wf = true := by decide +kernel

theorem test_depthsOk_refuses :
    ({ std with hdepth := 1 }).depthsOk = false ∧ ({ std with cdepth := 1 }).depthsOk = false := by decide

theorem test_counterOk_refuses :
    ({ std with cw := 0 }).counterOk = false ∧ ({ std with cw := 33 }).counterOk = false ∧
      ({ std with tickHz := 0 }).counterOk = false := by decide

theorem test_tWordOk_refuses :
    ({ std with tWord := 0 }).tWordOk = false ∧ ({ std with tWord := 5000000 }).tWordOk = false := by decide

theorem test_timeoutsFit_refuses :
    ({ std with cw := 23 }).timeoutsFit = false ∧ ({ std with cw := 24 }).timeoutsFit = true ∧
      ({ std with tDb := 4294967296 }).timeoutsFit = false := by decide +kernel

theorem test_samplingOk_refuses :
    ({ std with maxTicksPerStep := 2147483648 }).samplingOk = false ∧
      ({ std with tDb := 4293967296 }).samplingOk = false := by decide +kernel

theorem test_codesOk_refuses :
    ({ std with codes := { std.codes with errImageFailure := 0 } }).codesOk = false ∧
      ({ std with codes := { std.codes with opSps := 1 } }).codesOk = false := by decide

theorem test_hideOk_refuses :
    ({ std with nhide := 33 }).hideOk = false ∧
      ({ std with hideTable := { std.hideTable with normal := 1 } }).hideOk = false ∧
      ({ std with hideTable := { std.hideTable with error := 0 } }).hideOk = false ∧
      ({ std with hideTable := { std.hideTable with recovery := 0xF } }).hideOk = false ∧
      ({ std with hideTable := { std.hideTable with debugMode := 7 } }).hideOk = false ∧
      ({ std with hideTable := { std.hideTable with sps := 0x10 } }).hideOk = false := by decide +kernel

theorem test_categoriesOk_refuses :
    ({ std with ncat := 3 }).categoriesOk = false ∧
      ({ std with catRules := [{ group := 1, command := none, cat := 5 }] }).categoriesOk = false := by decide

theorem test_allowOk_refuses :
    ({ std with allowTable := { std.allowTable with debugMode := 2 } }).allowOk = false ∧
      ({ std with allowTable := { std.allowTable with sps := 0x0F } }).allowOk = false ∧
      ({ std with allowTable := { std.allowTable with error := 1 } }).allowOk = false ∧
      ({ std with allowTable := { std.allowTable with recovery := 7 } }).allowOk = false := by decide +kernel

theorem test_doorbellOk_refuses :
    ({ bell with dbMaxPay := 0 }).doorbellOk = false ∧ ({ bell with dbMaxPay := 512 }).doorbellOk = false ∧
      ({ bell with dbProtoMgmt := 1 }).doorbellOk = false ∧ ({ bell with dbSubResetAck := 1 }).doorbellOk = false ∧
      ({ bell with dbHsPayload := List.replicate 13 0 }).doorbellOk = false ∧
      ({ bell with dbHsDoorbell := 0x00008804 }).doorbellOk = false ∧
      ({ bell with dbHsAcks := 3 }).doorbellOk = false := by decide +kernel

theorem test_clientCommand_wf_refuses :
    (ClientCommand.send 256 0 []).wf = false ∧ (ClientCommand.send 0 256 []).wf = false ∧
      (ClientCommand.tstart 4294967296).wf = false ∧ (ClientCommand.recvB 4294967296).wf = false := by decide +kernel

/-! ### Decoding (30_encoding.md R93 to R96, written out from the layouts; `CMD` words of 95_test_vectors.md) -/

theorem test_decode_tstart : decodeWord 0x00000001 = .ok .tstart := by decide

theorem test_decode_texpired : decodeWord 0x00000002 = .ok .texpired := by decide

theorem test_decode_init : decodeWord 0x00000010 = .ok .init := by decide

/-- `B` = 10100101, `A` = 00111100, `OPC` = 00010001. -/
theorem test_decode_send : decodeWord 0b00000000101001010011110000010001 = .ok (.send 0x3C 0xA5) := by decide

/-- `BLK` is bit 24. -/
theorem test_decode_recv :
    decodeWord 0b00000001000000000000000000010010 = .ok (.recv true) ∧ decodeWord 0x00000012 = .ok (.recv false) := by
  decide

theorem test_decode_lreset : decodeWord 0x00000013 = .ok .lreset := by decide

theorem test_decode_classify : decodeWord 0x00000020 = .ok .classify := by decide

theorem test_decode_hidemask : decodeWord 0x00000021 = .ok .hidemask := by decide

theorem test_decode_allowmask : decodeWord 0x00000022 = .ok .allowmask := by decide

theorem test_decode_rejects :
    decodeWord 0x00000000 = .error .reservedOpcode ∧ decodeWord 0x000000FF = .error .reservedOpcode ∧
      decodeWord 0x00000101 = .error .reservedBits ∧ decodeWord 0x01000711 = .error .reservedBits ∧
      decodeWord 0x02000012 = .error .reservedBits ∧ decodeWord 0x00000112 = .error .reservedBits := by decide

theorem test_encode :
    encode (.send 0x07 0x00) = 0x00000711 ∧ encode (.send 0x02 0xFF) = 0x00FF0211 ∧
      encode (.recv true) = 0x01000012 := by decide

/-! ### Reset and the port -/

/-- 10_state.md R45: the registers whose reset value the table gives. -/
theorem test_reset_registers :
    State.reset.lstate = .uninit ∧ State.reset.hcsr.toWord = 0x00080000 ∧ State.reset.ccsr.depth = 8 ∧
      State.reset.comm.toWord = 0 ∧ State.reset.refclk = 0 ∧ State.reset.seq = .idle := by decide

theorem test_withFetchWord : ((fresh std).withFetchWord 32 0x01000711).cmd = 0x01000711 := by decide

/-- A counter of eight bits is drawn in its range (10_state.md R22, R45). -/
theorem test_created_counter :
    (State.created { std with cw := 8 } { ResetDraws.zero with counter := 300 }).counter = 44 := by decide

/-- Some offsets of the optional map (20_memory.md R65). -/
theorem test_map :
    [0x00, 0x08, 0x1C, 0x4C, 0x3C, 0x100, 0x2FF, 0x300, 0x4FF, 0x500].map mapTarget =
      [some (.reg .txwin), some (.reg .rxwin), some (.reg .lstate), some (.reg .refclk), none, some (.outMsg 0),
        some (.outMsg 511), some (.inMsg 0), some (.inMsg 511), none] := by decide

/-- An illegal word ends `UNSUPPORTED` (30_encoding.md R96). -/
theorem test_illegal_word : gives (step (issued 0x01000711)) (fun t => t.result == 7 && t.seq == .idle) = true := by
  decide +kernel

/-! ### Commands -/

/-- Vectors TM1 and TM4. -/
theorem test_tstart :
    gives (exec .tstart { fresh { std with cw := 8 } with counter := 250, arg0 := 10 })
        (fun t => t.res0 == 250 && t.res1 == 4 && t.result == 0) = true ∧
      gives (exec .tstart { fresh { std with cw := 8 } with counter := 252, arg0 := 256 })
        (fun t => t.result == 7) = true := by decide +kernel

/-- A SEND issued at `READY` with `RESYNC = 1` is the client's fault (93_implementation_defined.md U9); with `RESYNC = 0`
or while `RESETTING` it is not. -/
theorem test_issueFault :
    issueFault { issued 0x00000711 with resync := true } = some .resyncPending ∧ issueFault (issued 0x00000711) = none ∧
      issueFault { issued 0x00000711 with resync := true, lstate := .resetting } = none ∧
      issueFault { issued 0x00000013 with resync := true } = none := by decide

/-- Vector TM11. -/
theorem test_tstart_wraps :
    gives (step (poke { fresh std with counter := 0xFFFFFFF0 } (.tstart 5000000)))
      (fun t => t.res0 == 0xFFFFFFF0 && t.res1 == 0x004C4B30 && t.result == 0) = true := by decide +kernel

/-- Vectors TM6 and TM7. -/
theorem test_texpired :
    gives (exec .texpired { fresh { std with cw := 8 } with counter := 4, arg0 := 250, arg1 := 4 })
        (fun t => t.res0 == 0 && t.result == 0) = true ∧
      gives (exec .texpired { fresh { std with cw := 8 } with counter := 5, arg0 := 250, arg1 := 4 })
        (fun t => t.res0 == 1 && t.result == 0) = true := by decide +kernel

/-- Vector TM9. -/
theorem test_texpired_unsupported :
    gives (exec .texpired { fresh { std with cw := 8 } with arg0 := 256 }) (fun t => t.result == 7) = true := by
  decide +kernel

/-- Vector I1. -/
theorem test_init :
    gives (step (poke { fresh std with ccsr := { (fresh std).ccsr with rdy := true } } .init))
      (fun t => t.lstate == .ready && t.hcsr.toWord == 0x06080000 && t.result == 0 &&
        t.trace == [.writeReg .hcsr 0x06080000]) = true := by decide +kernel

/-- Vector I3. -/
theorem test_init_timeout :
    gives (step { poke (fresh std) .init with env := stall }) (fun t => t.lstate == .uninit && t.result == 3) = true := by
  decide +kernel

/-- Vector T1. -/
theorem test_send :
    gives (step (poke (ready std) (.send 0x07 0x00 [1, 2, 3, 4, 5])))
      (fun t => t.txring == [0x80050700, 0x04030201, 0x00000005] && t.hcsr.toWord == 0x06080003 &&
        t.result == 0) = true := by decide +kernel

/-- Vector G1: the gate, before any access to the link. -/
theorem test_send_gate :
    gives (step (poke { ready std with stsA := 0x10 } (.send 0x07 0x00 [3, 7, 0, 0])))
      (fun t => t.result == 7 && t.trace == [] && t.txring == []) = true := by decide +kernel

/-- Vector RC3: truncation. -/
theorem test_recv :
    gives (step (poke { ready std with rxring := [0x80050700, 0x04030201, 5],
                                       ccsr := { (ready std).ccsr with wp := 3 } } (.recvNB 3)))
      (fun t => t.result == 4 && t.res0 == 3 && t.res1 == 0x80050700 && t.res2 == 5 && t.rxring == [] &&
        memBytes t.msgbuf 4 == [1, 2, 3, 0]) = true := by decide +kernel

/-- Vector DR6: an event whose length is not the header's. -/
theorem test_recv_doorbell :
    gives (step (poke { ready bell with inMsg := [(0, 1), (1, 2), (2, 3), (3, 0x80)],
                                        dbIn := Doorbell.ofWord 0x00040408 } (.recvNB 8)))
      (fun t => t.result == 6 && t.resync && t.dbIn.toWord == 0x00040408) = true := by decide +kernel

/-- Vector LR1, on a quiet link that accepts the reset at once. -/
theorem test_lreset :
    gives (step { poke { ready std with resync := true, hcsr := { (ready std).hcsr with wp := 3 },
                                        txring := [1, 2, 3] } .lreset with
                  env := [[], [.acceptReset]] })
      (fun t => t.result == 0 && t.lstate == .ready && !t.resync && t.hcsr.toWord == 0x06080000 && t.txring == [] &&
        t.trace == [.writeReg .hcsr 0x07080003, .writeReg .hcsr 0x06080000]) = true := by decide +kernel

/-- Vector LR3. -/
theorem test_lreset_uninit : gives (step (poke (fresh std) .lreset)) (fun t => t.result == 2) = true := by
  decide +kernel

/-- Vectors of section 2.7: `STS_A = 0x00050000` is `SpsPath`, an error code makes it `ErrorPath`. -/
theorem test_classify :
    gives (step (poke { fresh std with stsA := 0x00050000 } .classify)) (fun t => t.res0 == 9 && t.result == 0) = true ∧
      gives (step (poke { fresh std with stsA := 0x00050200 } .classify)) (fun t => t.res0 == 1) = true := by
  decide +kernel

theorem test_hidemask :
    gives (step (poke { fresh std with stsA := 0x00010000 } .hidemask)) (fun t => t.res0 == 0xF && t.res1 == 7) = true := by
  decide +kernel

theorem test_allowmask :
    gives (step (poke { fresh std with stsA := 0x00000001 } .allowmask)) (fun t => t.res0 == 0x0F && t.res1 == 2) = true := by
  decide +kernel

/-! ### Witnesses: the hypotheses of the statements are met -/

theorem witness_DecodeEncodeAgree :
    Instr.wf (.send 0xFF 0xFF) = true ∧ decodeWord 0x00FFFF11 = .ok (.send 0xFF 0xFF) := by decide

theorem witness_StepRunsCommand :
    (issued 0x00000711).cfg.wf = true ∧ (issued 0x00000711).seq = .issued ∧
      decodeWord (issued 0x00000711).cmd = .ok (.send 7 0) ∧ Instr.wf (.send 7 0) = true := by decide +kernel

/-- The rows of the opcode map, as the statement lists them. -/
def rows : List (Word × Word) :=
  [(0xFFFFFFFF, 0x00000001), (0xFFFFFFFF, 0x00000002), (0xFFFFFFFF, 0x00000010), (0xFF0000FF, 0x00000011),
    (0xFEFFFFFF, 0x00000012), (0xFFFFFFFF, 0x00000013), (0xFFFFFFFF, 0x00000020), (0xFFFFFFFF, 0x00000021),
    (0xFFFFFFFF, 0x00000022)]

/-- An opcode of no row, and reserved bits of rows that are otherwise matched. -/
theorem witness_IllegalWordEnds :
    ∀ s ∈ [issued 0x00000003, issued 0x01000711, issued 0x03000012],
      s.cfg.wf = true ∧ s.seq = .issued ∧ ∀ r ∈ rows, s.cmd &&& r.1 ≠ r.2 := by
  intro s hs
  have h : s.cfg.wf = true ∧ s.seq = .issued ∧ (rows.all fun r => decide (s.cmd &&& r.1 ≠ r.2)) = true := by
    revert s
    decide +kernel
  exact ⟨h.1, h.2.1, fun r hr => of_decide_eq_true (List.all_eq_true.mp h.2.2 r hr)⟩

/-- Each of the three parts at its boundary. -/
theorem witness_BadConfigurationRefused :
    ¬(2 ≤ ({ std with hdepth := 1 }).hdepth.toNat) ∧ ¬(2 ≤ ({ std with cdepth := 1 }).cdepth.toNat) ∧
      ¬(15000000 * ({ std with cw := 23 }).tickHz / 1000000 < 2 ^ ({ std with cw := 23 }).cw) ∧
      15000000 * ({ std with cw := 24 }).tickHz / 1000000 < 2 ^ ({ std with cw := 24 }).cw := by decide +kernel

/-- A safe state in the middle of a command: the handshake at the last byte of its payload. -/
theorem witness_SafeStepsGoOn :
    State.Safe { fresh bell with seq := .busy (.hsPayload { reset := false, round := 1, acks := 1 } 3) } :=
  ⟨by decide +kernel,
    ⟨by decide, by decide, by decide, (fun _ h => nomatch h), (fun _ h => nomatch h), by decide, by decide, by decide,
      by decide⟩,
    fun p h => by cases h; decide⟩

/-- A SEND at the push of the last word of its packet, one word of room left. -/
def lastPush : Pos :=
  .sendWord { src := 0, dst := 7, cur := { off := 0, plen := 5, mc := true }, rest := [], acked := false, moved := true } 1 5

/-- The state at `lastPush`. -/
def pushing : State :=
  { ready std with
    seq := .busy lastPush
    txring := [1, 2, 3, 4, 5, 6, 7]
    hcsr := { (ready std).hcsr with wp := 3, rp := 252 } }

theorem pushing_counted : pushing.RingsCounted :=
  ⟨by decide, by decide, by decide, by decide, by decide, by decide⟩

theorem pushing_kept : pushing.RingsKept :=
  ⟨pushing_counted, fun p h => by cases h; exact ⟨by decide, by decide⟩⟩

/-- The loopback fixture takes one whole message from `TXRING` to `RXRING` (20_memory.md R74). -/
def looping : State :=
  { ready std with txring := [0x80000700], hcsr := { (ready std).hcsr with wp := 1 } }

theorem looping_kept : looping.RingsKept :=
  ⟨⟨by decide, by decide, by decide, by decide, by decide, by decide⟩, fun _ h => nomatch h⟩

theorem looping_execution :
    Execution looping [{ before := looping, move := .loopback }] (looping.envMove .loopback) := .turn _ (.done _)

/-- It is a well-behaved controller (20_memory.md R73). -/
theorem test_loopback_wellBehaved :
    WellBehaved [{ before := looping, move := .loopback }] (looping.envMove .loopback) where
  w1 := by
    intro τ h
    rw [List.mem_singleton.mp h]
    rfl
  w2 := by decide
  w3 := by
    refine ⟨fun τ h => ?_, rfl⟩
    rw [List.mem_singleton.mp h]
    exact ⟨rfl, rfl⟩
  w4 := by
    intro before τ after h hm
    have hτ : τ ∈ [({ before := looping, move := .loopback } : EnvTurn)] :=
      h ▸ List.mem_append_right _ List.mem_cons_self
    rw [List.mem_singleton.mp hτ] at hm
    cases hm
  w5 := rfl

/-- A word that is no whole packet is not well-behaved production (W2). -/
theorem test_wholeMessages :
    wholeMessages [0x80050700, 0x04030201, 0x00000005] = true ∧ wholeMessages [0x80050700, 0x04030201] = false ∧
      wholeMessages [0x00000700] = false ∧ wholeMessages [0x00000700, 0x80000700] = true := by decide

theorem witness_RingsStayCounted :
    pushing.RingsKept ∧ pushing.seq = .busy lastPush ∧ (∃ t, engineAct pushing lastPush = .next t) ∧
      (ready std).RingsCounted ∧ (ready std).cfg.kind = .circular ∧ (ready std).seq = .idle ∧ looping.RingsKept ∧
      looping.cfg.kind = .circular ∧
      Execution looping [{ before := looping, move := .loopback }] (looping.envMove .loopback) ∧
      EnvMove.loopback.orderly looping = true ∧
      (EnvMove.produce 9).orderly { pushing with rxring := [1, 2, 3, 4, 5, 6, 7] } = true ∧
      (EnvMove.produce 9).orderly { pushing with rxring := [1, 2, 3, 4, 5, 6, 7, 8] } = false :=
  ⟨pushing_kept, rfl, ⟨_, rfl⟩, ⟨by decide, by decide, by decide, by decide, by decide, by decide⟩, rfl, rfl,
    looping_kept, rfl, looping_execution, rfl, by decide, by decide⟩

/-- A push, and a pop from a ring of one word. -/
theorem witness_CsrAccessRights :
    (∃ t, engineAct pushing lastPush = .next t) ∧
      ∃ t, engineAct { pushing with rxring := [9] } (.recvPopHeader
          { blocking := true, max := 8, n := 0, total := 0, small := false, first := true, moved := false }) = .next t :=
  ⟨⟨_, rfl⟩, ⟨_, rfl⟩⟩

/-! ### States for the statements about whole commands -/

/-- `exec` on each of the list's commands and states answers a next state, idle, with the list's code. -/
def endsAll (l : List (Instr × State × BitVec 8)) : Bool :=
  l.all fun x => gives (exec x.1 x.2.1) fun t => t.seq == .idle && t.result == x.2.2

theorem ends_all {l : List (Instr × State × BitVec 8)} (h : endsAll l = true) :
    ∀ x ∈ l, ∃ t, exec x.1 x.2.1 = .next t ∧ t.seq = .idle ∧ t.result = x.2.2 := by
  intro x hx
  obtain ⟨t, ht, hp⟩ := gives_next (List.all_eq_true.mp h x hx)
  rw [Bool.and_eq_true, beq_iff_eq, beq_iff_eq] at hp
  exact ⟨t, ht, hp.1, hp.2⟩

/-- The ready state with the message of vector T1 in `MSGBUF`. -/
def sending : State := { ready std with msgbuf := five, arg0 := 5 }

/-- The ready state with that message in `RXRING` and a capacity of five bytes. -/
def receiving : State :=
  { ready std with
    rxring := [0x80050700, 0x04030201, 0x00000005]
    ccsr := { (ready std).ccsr with wp := 3 }
    arg0 := 5 }

/-- `DEVICE_PRESENT = false`. -/
def absent : State := ready { std with devicePresent := false }

/-- The controller not ready, its words as they are. -/
def State.deaf (s : State) : State := { s with ccsr := { s.ccsr with rdy := false } }

/-- The ready doorbell state with an event of a three-byte packet waiting (vector DR1). -/
def ringing : State :=
  { ready bell with
    inMsg := [(0, 1), (1, 2), (2, 3), (3, 0x80), (4, 0x10), (5, 0x11), (6, 0x12)]
    dbIn := Doorbell.ofWord 0x00040407
    arg0 := 3 }

/-- The ready doorbell state with a message of ten bytes, two packets (vector DS4). -/
def chunked : State :=
  { ready bell with
    msgbuf := [(0, 0x20), (1, 0x21), (2, 0x22), (3, 0x23), (4, 0x24), (5, 0x25), (6, 0x26), (7, 0x27), (8, 0x28),
      (9, 0x29)]
    arg0 := 10
    env := List.replicate 27 [] ++ [.takeOut, .postIn 0x00044800] :: List.replicate 15 [] ++
      [[.takeOut, .postIn 0x00044800]] }

/-- A doorbell instance with a coprocessor that answers both writes of the handshake. -/
def answered (s : State) : State := { s with env := handshakeSchedule 4 [0x00044800] [0x00048800] }

theorem witness_CommandFrame :
    ∀ i ∈ [Instr.tstart, .texpired, .init, .send 7 0, .recv true, .recv false, .lreset, .classify, .hidemask,
        .allowmask], ∀ c ∈ [std, bell], clientFault i (ready c) = false ∧ ∃ t, exec i (ready c) = .next t := by
  have h : ([Instr.tstart, .texpired, .init, .send 7 0, .recv true, .recv false, .lreset, .classify, .hidemask,
        .allowmask].all fun i => [std, bell].all fun c => gives (exec i (ready c)) fun _ => true) = true := by
    decide +kernel
  intro i hi c hc
  obtain ⟨t, ht, -⟩ := gives_next (List.all_eq_true.mp (List.all_eq_true.mp h i hi) c hc)
  exact ⟨by cases i <;> rfl, t, ht⟩

/-- Commands that end, one for each transition of `LSTATE` and one for each code of a circular SEND and RECV. -/
def endings : List (Instr × State × BitVec 8) :=
  [(.init, { fresh std with ccsr := { (fresh std).ccsr with rdy := true } }, 0), (.init, ready std, 0),
    (.lreset, { ready std with env := [[], [.acceptReset]] }, 0), (.lreset, { ready std with env := stall }, 3),
    (.lreset, fresh std, 2), (.lreset, absent, 1),
    (.send 7 0, sending, 0), (.send 7 0, State.deaf sending, 2), (.send 7 0, { sending with lstate := .uninit }, 2),
    (.send 7 0, { sending with hcsr := { sending.hcsr with rp := 248 }, env := stall }, 3),
    (.send 7 0, { sending with hcsr := { sending.hcsr with rp := 247 } }, 8),
    (.send 7 0, { sending with stsB := 1 }, 7), (.send 7 0, absent, 1),
    (.recv false, receiving, 0), (.recv false, { receiving with arg0 := 4 }, 4), (.recv true, State.deaf receiving, 2),
    (.recv true, fresh std, 2), (.recv true, { ready std with env := stall }, 3),
    (.recv false, { receiving with ccsr := { receiving.ccsr with rp := 250 } }, 8), (.recv false, ready std, 5),
    (.recv true, absent, 1)]

theorem endings_end : endsAll endings = true := by decide +kernel

theorem endings_noFault : ∀ x ∈ endings, clientFault x.1 x.2.1 = false := by decide +kernel

theorem witness_LinkTransitions :
    ∀ x ∈ endings, clientFault x.1 x.2.1 = false ∧
      ∃ t, exec x.1 x.2.1 = .next t ∧ t.seq = .idle ∧ t.result = x.2.2 :=
  fun x hx => ⟨endings_noFault x hx, ends_all endings_end x hx⟩

theorem witness_EndCodes :
    ∀ x ∈ endings, clientFault x.1 x.2.1 = false ∧
      ∃ t, exec x.1 x.2.1 = .next t ∧ t.seq = .idle ∧ t.result = x.2.2 :=
  fun x hx => ⟨endings_noFault x hx, ends_all endings_end x hx⟩

theorem witness_CircularFailureLeaves :
    ∀ x ∈ endings.drop 6, ((∃ a b, x.1 = .send a b) ∨ ∃ blk, x.1 = .recv blk) ∧ x.2.1.cfg.kind = .circular ∧
      clientFault x.1 x.2.1 = false ∧ ∃ t, exec x.1 x.2.1 = .next t ∧ t.seq = .idle ∧ t.result = x.2.2 := by
  have hk : ∀ x ∈ endings.drop 6, x.2.1.cfg.kind = .circular := by decide +kernel
  have hi : ∀ x ∈ endings.drop 6, x.1 = .send 7 0 ∨ x.1 = .recv true ∨ x.1 = .recv false := by decide +kernel
  intro x hx
  refine ⟨?_, hk x hx, endings_noFault x (List.mem_of_mem_drop hx), ends_all endings_end x (List.mem_of_mem_drop hx)⟩
  rcases hi x hx with h | h | h
  exacts [.inl ⟨7, 0, h⟩, .inr ⟨true, h⟩, .inr ⟨false, h⟩]

/-- Doorbell SENDs and RECVs that end, one for each code and, for `TIMEOUT`, before and after something has moved. -/
def bellEndings : List (Instr × State × BitVec 8) :=
  [(.send 2 1, chunked, 0), (.send 2 1, { chunked with env := stall ++ stall }, 3),
    (.send 2 1, { chunked with dbOut := Doorbell.ofWord 0x00040407, env := stall }, 3),
    (.send 2 1, { chunked with env := List.replicate 27 [] ++ [[.takeOut, .postIn 0x00048800]] }, 6),
    (.send 2 1, { chunked with stsB := 1 }, 7), (.send 2 1, { chunked with lstate := .uninit }, 2),
    (.send 2 1, ready { bell with devicePresent := false }, 1),
    (.recv false, ringing, 0), (.recv false, { ringing with arg0 := 2 }, 4),
    (.recv false, { ringing with dbIn := Doorbell.ofWord 0x00040408 }, 6), (.recv false, ready bell, 5),
    (.recv true, { ready bell with env := stall }, 3), (.recv true, fresh bell, 2),
    (.recv true, { ringing with inMsg := [(0, 1), (1, 2)], dbIn := Doorbell.ofWord 0x00040404, env := slowStall }, 3)]

theorem bellEndings_end : endsAll bellEndings = true := by decide +kernel

theorem witness_DoorbellFailureLeaves :
    ∀ x ∈ bellEndings, ((∃ a b, x.1 = .send a b) ∨ ∃ blk, x.1 = .recv blk) ∧ x.2.1.cfg.kind = .doorbell ∧
      clientFault x.1 x.2.1 = false ∧ ∃ t, exec x.1 x.2.1 = .next t ∧ t.seq = .idle ∧ t.result = x.2.2 := by
  have hk : ∀ x ∈ bellEndings, x.2.1.cfg.kind = .doorbell := by decide +kernel
  have hf : ∀ x ∈ bellEndings, clientFault x.1 x.2.1 = false := by decide +kernel
  have hi : ∀ x ∈ bellEndings, x.1 = .send 2 1 ∨ x.1 = .recv true ∨ x.1 = .recv false := by decide +kernel
  intro x hx
  refine ⟨?_, hk x hx, hf x hx, ends_all bellEndings_end x hx⟩
  rcases hi x hx with h | h | h
  exacts [.inl ⟨2, 1, h⟩, .inr ⟨true, h⟩, .inr ⟨false, h⟩]

theorem witness_DeviceAbsent :
    Instr.init ≠ .tstart ∧ Instr.init ≠ .texpired ∧ absent.cfg.devicePresent = false ∧
      ∃ t, exec .tstart absent = .next t := by
  refine ⟨by decide, by decide, rfl, ?_⟩
  obtain ⟨t, ht, -⟩ := gives_next (o := exec .tstart absent) (p := fun _ => true) (by decide +kernel)
  exact ⟨t, ht⟩

theorem witness_WrongLinkState :
    (ready std).cfg.devicePresent = true ∧ (ready std).lstate = .ready ∧
      ({ ready std with lstate := .resetting }).lstate = .resetting ∧
      ({ ready std with lstate := .resetting }).lstate ≠ .ready ∧ (fresh std).cfg.devicePresent = true ∧
      (fresh std).lstate = .uninit := by decide

theorem witness_EnvironmentMoves :
    ({ ready std with txring := [1, 2] }).txring = 1 :: [2] ∧
      ({ ready std with hcsr := { (ready std).hcsr with rst := true } }).hcsr.rst = true := by decide

theorem witness_EnvironmentKeepsItsHandsOff : sending.cfg.kind = .circular := rfl

theorem witness_ExpiredClosedForm : 250 < 2 ^ 8 ∧ 4 < 2 ^ 8 ∧ 255 < 2 ^ 8 := by decide

/-- A timer whose deadline wraps: the last sample before it, the first after it. -/
theorem witness_PollerCannotStepOver :
    std.wf = true ∧ 0 < ticksOf std 15000000 ∧ 4294967295 < 2 ^ std.cw ∧ 14999999 ≤ 15000001 ∧
      15000001 ≤ 14999999 + 2 * std.maxTicksPerStep ∧ 14999999 < 2 ^ std.cw ∧
      expired 4294967295 (deadline std 4294967295 15000000) ((4294967295 + 14999999) % 2 ^ std.cw) = false ∧
      expired 4294967295 (deadline std 4294967295 15000000) ((4294967295 + 15000001) % 2 ^ std.cw) = true ∧
      ticksOf std 15000000 < 15000001 := by decide +kernel

/-- One pair of status registers for each clause, and the pair where the clauses for SPS and for errors meet. -/
theorem witness_ClassifyOrder :
    std.wf = true ∧
      ((0x00050200 : Word).extractLsb' 16 4 = std.codes.opSps ∧ (0x00050200 : Word).extractLsb' 8 4 ≠ std.codes.errNone) ∧
      ((0x00050001 : Word).extractLsb' 16 4 = std.codes.opSps ∧ (0x00050001 : Word).extractLsb' 8 4 = std.codes.errNone) ∧
      (1 : Word).getLsbD 0 = true ∧ (0 : Word).getLsbD 0 = false ∧
      (0x00010000 : Word).extractLsb' 16 4 = std.codes.opDebug ∧
      (0x00020000 : Word).extractLsb' 16 4 = std.codes.opSecoverJmpr ∧
      (0x00030000 : Word).extractLsb' 16 4 = std.codes.opSwTempDisable ∧
      (0x00040000 : Word).extractLsb' 16 4 = std.codes.opSecoverMeiMsg ∧
      (0x00050200 : Word).extractLsb' 16 4 ∉
        [std.codes.opDebug, std.codes.opSecoverJmpr, std.codes.opSwTempDisable, std.codes.opSecoverMeiMsg] := by
  decide +kernel

theorem witness_HidePolicyHolds :
    std.wf = true ∧ ∀ x ∈ [((0 : Word), (0 : Word), Path.normal), (0x00020000, 0, .secoverJmpr),
        (0x00010000, 0, .debugMode), (0, 1, .enforcementWithoutDidMsg), (0x00000010, 0, .error),
        (0x00000001, 0, .recovery)],
      (fresh std).cfg.devicePresent = true ∧
        gives (exec .hidemask { fresh std with stsA := x.1, stsB := x.2.1 }) (fun t => t.res1 == pathCode x.2.2) = true := by
  decide +kernel

theorem witness_AllowPolicyHolds :
    std.wf = true ∧ ∀ x ∈ [((0 : Word), Path.normal), (0x00050000, .sps), (0x00000010, .error), (0x00000001, .recovery)],
      (fresh std).cfg.devicePresent = true ∧
        gives (exec .allowmask { fresh std with stsA := x.1 }) (fun t => t.res1 == pathCode x.2) = true := by
  decide +kernel

/-- A message of one byte is `CAT_OTHER`, one of two bytes has its own category. -/
theorem witness_SendGate :
    sending.cfg.devicePresent = true ∧ clientFault (.send 7 0) sending = false ∧
      clientFault (.send 7 0) { sending with lstate := .uninit, resync := true } = false ∧
      ({ sending with arg0 := 1, stsA := 0x10 }).gatePasses = false ∧
      ({ sending with arg0 := 2, msgbuf := [(0, 1), (1, 1)], stsA := 0x10 }).gatePasses = true ∧
      ({ sending with lstate := .uninit }).gatePasses = true ∧
      ({ sending with lstate := .uninit }).lstate ≠ .ready := by decide +kernel

theorem witness_EndOfBootPasses :
    let s := { sending with arg0 := 2, msgbuf := [(0, 1), (1, 0x81)], stsA := 0x00000110, stsB := 1 }
    s.cfg.wf = true ∧ s.cfg.devicePresent = true ∧ s.gateCategory = 0 ∧ s.cfg.kind = .circular ∧
      clientFault (.send 7 0) s = false ∧
      gives (exec (.send 7 0) s) (fun t => t.seq == .idle) = true := by decide +kernel

theorem witness_RingArithmetic :
    overflows { (ready std).hcsr with rp := 247 } = true ∧ overflows { (ready std).hcsr with rp := 248 } = false := by
  decide

theorem witness_PlanCuts : 0 < 28 ∧ 1 < (plan 57 28).length ∧ 0 < 57 := by decide

theorem witness_MessageRoundTrip : 1 ≤ 511 ∧ 511 ≤ 511 ∧ 1 ≤ 1 := by decide

theorem witness_RingAccess : receiving.rxring = 0x80050700 :: [0x04030201, 0x00000005] ∧ (ready std).rxring = [] := by
  decide

theorem witness_InitCircular :
    let s := { fresh std with ccsr := { (fresh std).ccsr with rdy := true } }
    s.cfg.devicePresent = true ∧ s.cfg.kind = .circular ∧ s.lstate = .uninit ∧
      s.advance.advance.ccsr.rdy = true := by decide

/-- A schedule of sixteen million ticks. -/
def slow : State := { fresh std with env := ticksOnly (0 :: List.replicate 16 1000000) }

theorem slow_safe : slow.Safe :=
  ⟨by decide +kernel,
    ⟨by decide, by decide, by decide, (fun _ h => nomatch h), (fun _ h => nomatch h), by decide, by decide, by decide,
      by decide⟩,
    fun _ h => nomatch h⟩

theorem witness_InitTimesOut :
    slow.Safe ∧ slow.cfg.devicePresent = true ∧ slow.cfg.kind = .circular ∧ slow.lstate = .uninit ∧
      slow.ccsr.rdy = false ∧ slow.env = ticksOnly (0 :: List.replicate 16 1000000) ∧
      (List.replicate 16 1000000).length < 2 ^ 60 ∧ (∀ m ∈ List.replicate 16 1000000, m ≤ slow.cfg.maxTicksPerStep) ∧
      ticksOf slow.cfg 15000000 < (List.replicate 16 1000000).sum :=
  ⟨slow_safe, rfl, rfl, rfl, rfl, rfl, by decide, by decide +kernel, by decide +kernel⟩

theorem witness_LresetCircular :
    let s := { ready std with env := [[], [.acceptReset]] }
    let s1 := { s with lstate := .resetting }.advance
    let h1 := { s1.hcsr with rst := true, ig := true }
    let s2 := { s1 with hcsr := h1, trace := s1.trace ++ [Event.writeReg .hcsr h1.toWord] }
    s.cfg.devicePresent = true ∧ s.cfg.kind = .circular ∧ s.lstate ≠ .uninit ∧
      s2.advance.advance.hcsr.rdy = false ∧ s2.advance.advance.advance.advance.ccsr.rdy = true := by decide +kernel

/-- The instance with two events a round and a payload that fills the window. -/
def bell2 : Config := { bell with dbHsAcks := 2, dbHsPayload := List.replicate 12 0x55 }

/-- The words are management events, of either kind. -/
def acknowledges (c : Config) (ws : List Word) : Bool :=
  ws.all fun w => decide ((Doorbell.ofWord w).proto = c.dbProtoMgmt ∧
    ((Doorbell.ofWord w).subcmd = c.dbSubCompletion ∨ (Doorbell.ofWord w).subcmd = c.dbSubResetAck))

theorem acknowledges_forall {c : Config} {ws : List Word} (h : acknowledges c ws = true) :
    ∀ w ∈ ws, (Doorbell.ofWord w).proto = c.dbProtoMgmt ∧
      ((Doorbell.ofWord w).subcmd = c.dbSubCompletion ∨ (Doorbell.ofWord w).subcmd = c.dbSubResetAck) :=
  fun w hw => of_decide_eq_true (List.all_eq_true.mp h w hw)

/-- One event a round, and two events a round; INIT and LRESET. -/
theorem witness_HandshakeCompletes :
    (∀ x ∈ [(bell, [(0x00044800 : Word)], [(0x00048800 : Word)]),
        (bell2, [0x00044800, 0x00048800], [0x00048800, 0x00044800])],
      x.1.wf = true ∧ x.1.devicePresent = true ∧ x.1.kind = .doorbell ∧ (fresh x.1).outMsg.wf = true ∧ x.2.1.length = x.1.dbHsAcks ∧ x.2.2.length = x.1.dbHsAcks ∧
        acknowledges x.1 (x.2.1 ++ x.2.2) = true) ∧
      (answered (fresh bell)).lstate = .uninit ∧ (answered (ready bell)).lstate ≠ .uninit := by decide +kernel

theorem witness_HandshakeTrace :
    (fresh bell).cfg.devicePresent = true ∧ (fresh bell).cfg.kind = .doorbell ∧ (fresh bell).outMsg.wf = true ∧
      (fresh bell).lstate = .uninit ∧ (ready bell).lstate ≠ .uninit ∧
      ∀ x ∈ [(Instr.init, answered (fresh bell), (0 : BitVec 8)), (.lreset, answered (ready bell), 0)],
        ∃ t, exec x.1 x.2.1 = .next t ∧ t.seq = .idle ∧ t.result = x.2.2 :=
  ⟨rfl, rfl, rfl, rfl, by decide, ends_all (by decide +kernel)⟩

/-- The message fills the ring to its last word. -/
theorem witness_SendCircular :
    let s := { sending with hcsr := { sending.hcsr with rp := 251 } }
    s.env = [] ∧ s.cfg.devicePresent = true ∧ s.cfg.kind = .circular ∧ 2 ≤ s.cfg.hdepth.toNat ∧ s.lstate = .ready ∧
      s.resync = false ∧ s.gatePasses = true ∧ s.ccsr.rdy = true ∧
      filled s.hcsr + (encodeMessage 0 7 (memRead s.msgbuf) s.arg0.toNat (maxPay s.cfg.hdepth)).length =
        s.hcsr.depth.toNat := by decide +kernel

theorem witness_SendPushesTheMessage :
    sending.cfg.kind = .circular ∧ clientFault (.send 7 0) sending = false ∧
      ∀ x ∈ [(Instr.send 7 0, sending, (0 : BitVec 8))],
        ∃ t, exec x.1 x.2.1 = .next t ∧ t.seq = .idle ∧ t.result = x.2.2 :=
  ⟨rfl, rfl, ends_all (by decide +kernel)⟩

/-- An empty packet, and one of the greatest length that is also the size limit. -/
theorem witness_SendDoorbellPacket :
    ∀ s ∈ [ready { bell with dbMaxMsg := some 8 }, { ready { bell with dbMaxMsg := some 8 } with arg0 := 8 }],
      s.env = [] ∧ s.cfg.devicePresent = true ∧ s.cfg.kind = .doorbell ∧ s.lstate = .ready ∧ s.resync = false ∧
        s.gatePasses = true ∧ s.dbOut.busy = false ∧ s.outMsg.wf = true ∧ s.arg0.toNat ≤ s.cfg.dbMaxPay ∧ s.arg0.toNat ≤ 8 := by
  decide +kernel

theorem witness_SendRingsThePlan :
    chunked.cfg.kind = .doorbell ∧ chunked.outMsg.wf = true ∧ clientFault (.send 2 1) chunked = false ∧
      ∀ x ∈ [(Instr.send 2 1, chunked, (0 : BitVec 8))],
        ∃ t, exec x.1 x.2.1 = .next t ∧ t.seq = .idle ∧ t.result = x.2.2 :=
  ⟨rfl, rfl, rfl, ends_all (by decide +kernel)⟩

theorem witness_SendOversize :
    let s := { ready { bell with dbMaxMsg := some 8 } with arg0 := 9 }
    s.cfg.devicePresent = true ∧ s.cfg.kind = .doorbell ∧ s.lstate = .ready ∧ s.resync = false ∧
      s.gatePasses = true ∧ s.cfg.dbMaxMsg = some 8 ∧ 8 < s.arg0.toNat := by decide +kernel

/-- Both rings hold one word more than the depth. -/
def overfull : State :=
  { sending with hcsr := { sending.hcsr with rp := 247 }, ccsr := { sending.ccsr with rp := 247 } }

/-- A timer of no duration. -/
def noTime : Timer := { start := 0, stop := 0 }

/-- The locals of a SEND that has pushed a packet. -/
def midSend : SendCtx :=
  { dst := 7, src := 0, cur := { off := 28, plen := 2, mc := true }, rest := [], acked := false, moved := true }

theorem witness_OverflowEnds :
    overfull.cfg.devicePresent = true ∧ overfull.cfg.kind = .circular ∧ overfull.lstate = .ready ∧
      overfull.resync = false ∧ 2 ≤ overfull.cfg.hdepth.toNat ∧ overfull.gatePasses = true ∧
      filled overfull.afterGate.advance.advance.hcsr = overfull.afterGate.advance.advance.hcsr.depth.toNat + 1 ∧
      filled overfull.advance.advance.ccsr = overfull.advance.advance.ccsr.depth.toNat + 1 ∧ overfull.cfg.wf = true ∧
      ∀ s ∈ [{ overfull with seq := .busy (.pollCond (.sendRoom midSend) noTime) },
          { overfull with seq := .busy (.pollCond (.recvHeader (recvStart true 5)) noTime) },
          { overfull with seq := .busy (.pollCond (.recvWord (recvStart true 5) { hw := 0x80050700, i := 1 }) noTime) }],
        s.resync = false ∧ filled s.advance.hcsr = s.advance.hcsr.depth.toNat + 1 ∧
          filled s.advance.ccsr = s.advance.ccsr.depth.toNat + 1 := by decide +kernel

/-- `receiving` with the word of another message behind. -/
def trailing : State :=
  { receiving with
    rxring := [0x80050700, 0x04030201, 0x00000005, 0x80000700]
    ccsr := { receiving.ccsr with wp := 4 } }

/-- Capacity exact, and one byte short. -/
theorem witness_RecvCircular :
    ∀ s ∈ [trailing, { trailing with arg0 := 4 }],
      s.env = [] ∧ s.cfg.devicePresent = true ∧ s.cfg.kind = .circular ∧ s.lstate = .ready ∧ s.resync = false ∧
        s.ccsr.rdy = true ∧ filled s.ccsr = s.rxring.length ∧ s.rxring.length ≤ s.ccsr.depth.toNat ∧
        decodeMessage s.rxring = some ([1, 2, 3, 4, 5], decodeHeader 0x80050700, [0x80000700]) := by decide +kernel

theorem witness_RecvDrainsOneMessage :
    receiving.cfg.kind = .circular ∧ receiving.msgbuf.wf = true ∧ clientFault (.recv true) receiving = false ∧
      clientFault (.recv false) { receiving with arg0 := 4 } = false ∧
      ∀ x ∈ [(Instr.recv true, receiving, (0 : BitVec 8)), (.recv false, { receiving with arg0 := 4 }, 4)],
        ∃ t, exec x.1 x.2.1 = .next t ∧ t.seq = .idle ∧ t.result = x.2.2 :=
  ⟨rfl, rfl, rfl, rfl, ends_all (by decide +kernel)⟩

theorem witness_RecvStaysInCapacity :
    ∀ x ∈ [(Instr.recv true, { receiving with arg0 := 4 }, (4 : BitVec 8)), (.recv false, ringing, 0)],
      (x.2.1.msgbuf.wf = true ∧ clientFault x.1 x.2.1 = false) ∧ ∃ t, exec x.1 x.2.1 = .next t ∧ t.seq = .idle ∧ t.result = x.2.2 := by
  intro x hx
  exact ⟨(by decide +kernel : ∀ x ∈ [(Instr.recv true, { receiving with arg0 := 4 }, (4 : BitVec 8)),
    (.recv false, ringing, 0)], x.2.1.msgbuf.wf = true ∧ clientFault x.1 x.2.1 = false) x hx, ends_all (by decide +kernel) x hx⟩

theorem ready_inv : ∀ c ∈ [std, bell], (ready c).Inv := by
  intro c hc
  have hc : c = std ∨ c = bell := by simpa using hc
  rcases hc with rfl | rfl <;>
    exact ⟨by decide, by decide, by decide, (fun _ h => nomatch h), (fun _ h => nomatch h), by decide, by decide, by decide,
      by decide⟩

theorem witness_RecvNoData :
    (∀ c ∈ [std, bell], (ready c).Inv ∧ (ready c).cfg.devicePresent = true ∧ (ready c).lstate = .ready ∧
      (ready c).resync = false ∧ if (ready c).cfg.kind = .circular then filled (ready c).advance.advance.ccsr = 0
      else (ready c).advance.advance.dbIn.busy = false) ∧
      clientFault (.recv true) receiving = false ∧ ∀ x ∈ [(Instr.recv true, receiving, (0 : BitVec 8))],
        ∃ t, exec x.1 x.2.1 = .next t ∧ t.seq = .idle ∧ t.result = x.2.2 :=
  ⟨fun c hc => ⟨ready_inv c hc, (by decide +kernel : ∀ c ∈ [std, bell], (ready c).cfg.devicePresent = true ∧
      (ready c).lstate = .ready ∧ (ready c).resync = false ∧
      if (ready c).cfg.kind = .circular then filled (ready c).advance.advance.ccsr = 0
      else (ready c).advance.advance.dbIn.busy = false) c hc⟩, rfl, ends_all (by decide +kernel)⟩

/-- Capacity exact, and one byte short. -/
theorem witness_RecvDoorbellPacket :
    ∀ s ∈ [ringing, { ringing with arg0 := 2 }],
      let hw := windowHeader s.inMsg
      s.env = [] ∧ s.cfg.devicePresent = true ∧ s.cfg.kind = .doorbell ∧ s.lstate = .ready ∧ s.resync = false ∧
        s.dbIn.busy = true ∧ s.dbIn.proto = s.cfg.dbProtoPayload ∧ (decodeHeader hw).mc = true ∧
        (decodeHeader hw).len.toNat ≤ s.cfg.dbMaxPay ∧ s.dbIn.len.toNat = 4 + (decodeHeader hw).len.toNat := by
  decide +kernel

/-- Three packets, the second empty, the last of the greatest length; room for all, and one byte short of it. -/
theorem witness_RecvDoorbellMessage :
    ∀ n ∈ [12, 11],
      let chunks : List (List Byte) := [[1, 2, 3, 4], []]
      let final : List Byte := [5, 6, 7, 8, 9, 10, 11, 12]
      let s := { ready bell with
        arg0 := BitVec.ofNat 32 n
        env := inboundSchedule bell n (inboundPackets 1 2 (chunks ++ [final])) }
      s.cfg.wf = true ∧ s.cfg.devicePresent = true ∧ s.cfg.kind = .doorbell ∧ s.lstate = .ready ∧ s.resync = false ∧
        s.dbIn.busy = false ∧ s.inMsg.wf = true ∧ ((chunks ++ [final]).all fun bs => decide (bs.length ≤ s.cfg.dbMaxPay)) = true ∧
        chunks.length < 2 ^ 32 ∧ (chunks ++ [final]).flatten.length < 2 ^ 32 ∧
        s.env = inboundSchedule s.cfg s.arg0.toNat (inboundPackets 1 2 (chunks ++ [final])) ∧
        gives (exec (.recv false) s) (fun t => t.result == if n == 12 then 0 else 4) = true := by decide +kernel

/-- Another protocol; a header longer than `DB_MAXPAY`, with the doorbell's length agreeing; a doorbell one byte longer
than the header says. -/
theorem witness_RecvWrongProtocol :
    (let s := { ringing with dbIn := Doorbell.ofWord 0x00044800 }
    s.cfg.devicePresent = true ∧ s.cfg.kind = .doorbell ∧ s.lstate = .ready ∧ s.resync = false ∧
      s.advance.advance.dbIn.busy = true ∧ s.advance.advance.dbIn.proto ≠ s.cfg.dbProtoPayload) ∧
    ∀ s ∈ [{ ringing with inMsg := [(0, 1), (1, 2), (2, 9), (3, 0x80)], dbIn := Doorbell.ofWord 0x0004040D },
        { ringing with dbIn := Doorbell.ofWord 0x00040408 }],
      let n := (decodeHeader (windowHeader s.inMsg)).len.toNat
      s.cfg.devicePresent = true ∧ s.cfg.kind = .doorbell ∧ s.lstate = .ready ∧ s.resync = false ∧ s.env = [] ∧
        s.dbIn.busy = true ∧ s.dbIn.proto = s.cfg.dbProtoPayload ∧
        (s.cfg.dbMaxPay < n ∨ s.dbIn.len.toNat ≠ 4 + n) := by decide +kernel

/-- Vector T5: `HDEPTH = 4`, `CDEPTH = 16`, a message of 30 bytes, which is three packets of eleven words. -/
def small : Config := { std with hdepth := 4, cdepth := 16 }

/-- The link of vector T5 with a loopback before every engine step, a tick with each. -/
def fragmenting : State :=
  { ready small with
    msgbuf := (List.range 30).map fun i => (i, BitVec.ofNat 8 (0x10 + i))
    arg0 := 30
    env := List.replicate 120 [.ticks 1, .loopback] }

theorem fragmenting_idle : fragmenting.LinkIdle :=
  ⟨by decide +kernel, rfl, rfl, rfl, rfl, rfl, rfl, rfl, rfl, rfl, by decide, by decide⟩

/-- 42_cb_transport.md R154 (1) and (2) on vector T5: SEND and then RECV.B under the loopback. -/
theorem test_round_trip_fragmented :
    gives (exec (.send 1 2) fragmenting) (fun t => t.seq == .idle && t.result == 0 && t.rxring.length == 11 &&
      gives (exec (.recv true) { t with msgbuf := [] }) fun v =>
        v.seq == .idle && v.result == 0 && v.res0 == 30 && v.res2 == 30 && v.rxring == [] &&
          memBytes v.msgbuf 30 == memBytes fragmenting.msgbuf 30) = true := by decide +kernel

/-- A loopback that begins late, so that words are still to be moved when the SEND has ended. -/
def slower : State :=
  { sending with env := List.replicate 17 [.ticks 1] ++ List.replicate 60 [.ticks 1, .loopback] }

theorem slower_idle : slower.LinkIdle :=
  ⟨by decide +kernel, rfl, rfl, rfl, rfl, rfl, rfl, rfl, rfl, rfl, by decide, by decide⟩

theorem ticked_loopbackOnly {env : List (List EnvMove)}
    (h : ∀ ms ∈ env, ms = [.ticks 1] ∨ ms = [.ticks 1, .loopback]) : loopbackOnly env := by
  intro ms hms m hm
  rcases h ms hms with rfl | rfl
  · exact .inr ⟨1, List.mem_singleton.mp hm⟩
  · rcases List.mem_cons.mp hm with rfl | hm
    · exact .inr ⟨1, rfl⟩
    · exact .inl (List.mem_singleton.mp hm)

theorem fragmenting_prompt : loopbackPrompt fragmenting.env := by
  have h : ∀ ms ∈ fragmenting.env, ms = [.ticks 1, .loopback] := fun _ => List.eq_of_mem_replicate
  refine ⟨ticked_loopbackOnly fun ms hms => .inr (h ms hms), fun ms hms => ?_⟩
  rw [h ms hms]
  exact List.mem_cons_of_mem _ List.mem_cons_self

theorem slower_loopbackOnly : loopbackOnly slower.env :=
  ticked_loopbackOnly fun _ hms => (List.mem_append.mp hms).imp List.eq_of_mem_replicate List.eq_of_mem_replicate

/-- The second and the third part: a fragmented message whose words `CDEPTH` holds, and a slower loopback. -/
theorem witness_SendThenRecv_loopback :
    (fragmenting.LinkIdle ∧ fragmenting.gatePasses = true ∧ Memory.wf [] = true ∧
      fragmenting.arg0.toNat ≤ (30 : Word).toNat ∧
      (encodeMessage 2 1 (memRead fragmenting.msgbuf) fragmenting.arg0.toNat (maxPay fragmenting.cfg.hdepth)).length ≤
        fragmenting.cfg.cdepth.toNat ∧ loopbackPrompt fragmenting.env ∧
      4 + 5 * (encodeMessage 2 1 (memRead fragmenting.msgbuf) fragmenting.arg0.toNat
        (maxPay fragmenting.cfg.hdepth)).length ≤ fragmenting.env.length) ∧
    slower.LinkIdle ∧ slower.gatePasses = true ∧ loopbackOnly slower.env ∧
      gives (exec (.send 7 0) slower) (fun t => t.seq == .idle && t.result != 3 && t.txring != [] &&
        gives (exec (.recv true) { t with msgbuf := [] }) fun v => v.seq == .idle && v.result != 3) = true :=
  ⟨⟨fragmenting_idle, by decide +kernel, rfl, by decide, by decide +kernel, fragmenting_prompt, by decide +kernel⟩,
    slower_idle, by decide +kernel, slower_loopbackOnly, by decide +kernel⟩

/-- The first part: a message of 28 bytes, which fills both rings, and a capacity that it fills. -/
theorem witness_SendThenRecv :
    let s := { sending with arg0 := 28 }
    s.env = [] ∧ s.cfg.wf = true ∧ s.cfg.devicePresent = true ∧ s.cfg.kind = .circular ∧ s.lstate = .ready ∧
      s.resync = false ∧ s.gatePasses = true ∧ s.ccsr.rdy = true ∧ s.txring = [] ∧ s.rxring = [] ∧ filled s.hcsr = 0 ∧
      filled s.ccsr = 0 ∧ Memory.wf [] = true ∧ s.arg0.toNat ≤ (28 : Word).toNat ∧
      (encodeMessage 0 7 (memRead s.msgbuf) s.arg0.toNat (maxPay s.cfg.hdepth)).length = s.hcsr.depth.toNat ∧
      s.hcsr.depth.toNat ≤ s.ccsr.depth.toNat := by decide +kernel

end Sys2Proof.Tests
end

section
/-! Statements of 00_scope.md: the constraints on a configuration. -/

namespace Sys2Proof.Machine

/-- A legal configuration passes every check, by name. -/
theorem config_wf_iff (c : Config) :
    c.wf = true ↔ c.depthsOk = true ∧ c.counterOk = true ∧ c.tWordOk = true ∧ c.timeoutsFit = true ∧
      c.samplingOk = true ∧ c.codesOk = true ∧ c.hideOk = true ∧ c.categoriesOk = true ∧ c.allowOk = true ∧
      c.doorbellOk = true := by
  simp only [Config.wf, Bool.and_eq_true, and_assoc]

/-- The depths of a legal configuration; the upper bounds are the width of a byte (00_scope.md R6). -/
theorem depths_in_range_of_wf {c : Config} (h : c.wf = true) :
    (2 ≤ c.hdepth.toNat ∧ c.hdepth.toNat ≤ 255) ∧ (2 ≤ c.cdepth.toNat ∧ c.cdepth.toNat ≤ 255) := by
  obtain ⟨hdepths, _⟩ := (config_wf_iff c).mp h
  obtain ⟨hh, hc⟩ : 2 ≤ c.hdepth.toNat ∧ 2 ≤ c.cdepth.toNat := by
    simpa [Config.depthsOk] using hdepths
  exact ⟨⟨hh, Nat.le_of_lt_succ c.hdepth.isLt⟩, hc, Nat.le_of_lt_succ c.cdepth.isLt⟩

/-- The longest timeout of the block fits the counter of a legal configuration (00_scope.md R6). -/
theorem longestTimeout_fits_of_wf {c : Config} (h : c.wf = true) :
    15000000 * c.tickHz / 1000000 < 2 ^ c.cw := by
  obtain ⟨_, _, _, hfit, _⟩ := (config_wf_iff c).mp h
  simp only [Config.timeoutsFit, Bool.and_eq_true, decide_eq_true_eq] at hfit
  exact hfit.left

/-- The only guard of `step` that asks about the configuration. -/
theorem step_of_not_wf {s : State} (h : ¬ s.cfg.wf = true) : step s = .refused .badConfiguration :=
  if_neg h

/-- Settles O5: a legal configuration meets all three constraints, so one that breaks any of them is not legal. -/
theorem badConfigurationRefused : Obligations.BadConfigurationRefused := by
  intro s hbad
  refine step_of_not_wf fun hwf => ?_
  obtain ⟨hhost, hcop⟩ := depths_in_range_of_wf hwf
  rcases hbad with hnot | hnot | hnot
  · exact hnot hhost
  · exact hnot hcop
  · exact hnot (longestTimeout_fits_of_wf hwf)

end Sys2Proof.Machine
end

section
/-! The command port and reset (10_state.md R42, R45): what one step does in each state of the sequencer, and the state
that a machine is created in. -/

namespace Sys2Proof.Machine

/-! ### One step, by the sequencer -/

/-- An idle machine lets the other agents move. -/
theorem step_of_idle {s : State} (hc : s.cfg.wf = true) (hq : s.seq = .idle) : step s = .next (idleStep s) := by
  simp only [step, if_pos hc, hq]

/-- A command just written is started. -/
theorem step_of_issued {s : State} (hc : s.cfg.wf = true) (hq : s.seq = .issued) : step s = startCommand s := by
  simp only [step, if_pos hc, hq]

/-- A command that still runs is run on. -/
theorem step_of_busy {s : State} {p : Pos} (hc : s.cfg.wf = true) (hq : s.seq = .busy p) : step s = runCommand s := by
  simp only [step, if_pos hc, hq]

theorem startCommand_of_legal {s : State} {i : Instr} (hd : decodeWord s.cmd = .ok i) : startCommand s = exec i s := by
  simp only [startCommand, hd]

theorem startCommand_of_illegal {s : State} {e : DecodeError} (hd : decodeWord s.cmd = .error e) :
    startCommand s = .next (s.ret .unsupported) := by
  simp only [startCommand, hd]

/-- Settles O3: the step starts the command, and starting a legal word is its meaning. -/
theorem stepRunsCommand : Obligations.StepRunsCommand := by
  intro s i hc hq hd _
  rw [step_of_issued hc hq, startCommand_of_legal hd]

/-! ### Reset -/

/-- Settles O6: every row of the table is a field of `State.created`; the draw of `COUNTER` is reduced into its range
(`created_counter`) and the three bits of `COMM` make the word 0. -/
theorem resetTable : Obligations.ResetTable := by
  intro c d
  have hcomm : (State.created c d).comm.toWord = 0 := by
    show Comm.toWord { hostReady := false, drvLoaded := false, drvReady := false } = 0
    decide
  exact ⟨rfl, rfl, rfl, rfl, rfl, rfl, rfl, rfl, rfl, rfl, rfl, rfl, created_counter c d, rfl, rfl, rfl, rfl, hcomm,
    rfl, rfl, rfl, rfl, rfl⟩

/-- What the draws must satisfy for its reset state to be safe: the memories and windows as
10_state.md R31 and R41 have them, and `RESULT` a code. -/
structure ResetDraws.Fit (d : ResetDraws) (c : Config) : Prop where
  msgbuf : d.msgbuf.wf = true
  outMsg : d.outMsg.wf = true
  inMsg : d.inMsg.wf = true
  outWindow : d.outMsg.below (windowSize c)
  inWindow : d.inMsg.below (windowSize c)
  result : d.result.toNat ≤ 8

/-- A legal configuration starts in a safe state: the engine is idle, the depths are the parameters, and the counter has been
reduced into its range. -/
theorem created_safe {c : Config} {d : ResetDraws} (hc : c.wf = true) (hd : d.Fit c) : (State.created c d).Safe where
  cfg := hc
  inv :=
    { msgbuf := hd.msgbuf, outMsg := hd.outMsg, inMsg := hd.inMsg, outWindow := hd.outWindow, inWindow := hd.inWindow
      hdepth := rfl, cdepth := rfl, result := hd.result
      counter := by rw [created_counter]; exact Nat.mod_lt _ (Nat.two_pow_pos _) }
  pos := fun _ hp => nomatch hp

theorem zeroDraws_fit (c : Config) : ResetDraws.zero.Fit c where
  msgbuf := rfl
  outMsg := rfl
  inMsg := rfl
  outWindow := fun _ h => nomatch h
  inWindow := fun _ h => nomatch h
  result := by decide

/-- Settles O7: the default configuration is legal and its draws are empty memories and zeros. -/
theorem resetSafe : Obligations.ResetSafe := created_safe (by decide) (zeroDraws_fit _)

end Sys2Proof.Machine
end

section
/-! What the shared continuations of the pseudocode can do. Each goes on at one of a few positions or ends the command;
the invariants of the engine are proved from these cases, so that none of them opens the definitions again. -/

namespace Sys2Proof.Machine

/-! ### SEND -/

/-- No packet of a plan is longer than the most a packet may carry (41_codec.md R134). -/
theorem plen_le_of_mem_plan {len maxpay : Nat} {p : Packet} (h : p ∈ plan len maxpay) : p.plen ≤ maxpay := by
  unfold plan at h
  split at h
  · rw [List.mem_singleton.mp h]; exact Nat.zero_le _
  · obtain ⟨i, -, rfl⟩ := List.mem_map.mp h
    exact Nat.min_le_left _ _

/-- A circular transfer starts with the wait for room. -/
theorem txSendBegin_cases (s : State) (dst src : Byte) (len : Nat) :
    txSendBegin s dst src len = s.ret .success ∨ ∃ c, txSendBegin s dst src len = s.poll (.sendRoom c) := by
  unfold txSendBegin
  split
  · exact .inl rfl
  · exact .inr ⟨_, rfl⟩

/-- A doorbell transfer starts with the wait for an idle doorbell, holding the packets of its plan. -/
theorem dbSendBegin_cases (s : State) (dst src : Byte) (len : Nat) :
    dbSendBegin s dst src len = s.ret .success ∨
      ∃ c, c.cur :: c.rest = plan len s.cfg.dbMaxPay ∧ dbSendBegin s dst src len = s.poll (.dbIdle c) := by
  unfold dbSendBegin
  split
  · exact .inl rfl
  · rename_i hplan
    exact .inr ⟨_, hplan.symm, rfl⟩

/-- SEND after its gate: it has ended, or it begins the transfer of the kind of the link. -/
theorem gateEnd_cases (s : State) (g : GateCtx) (p : Path) (cat : Nat) :
    (∃ e, gateEnd s g p cat = s.ret e) ∨
      (s.cfg.kind = .circular ∧ gateEnd s g p cat = txSendBegin s g.dst g.src g.len) ∨
      (s.cfg.kind = .doorbell ∧ gateEnd s g p cat = dbSendBegin s g.dst g.src g.len) := by
  unfold gateEnd
  split
  · split
    · unfold sendBegin
      split
      · exact .inr (.inl ⟨‹_›, rfl⟩)
      · split
        · exact .inl ⟨_, rfl⟩
        · exact .inr (.inr ⟨‹_›, rfl⟩)
    · exact .inl ⟨_, rfl⟩
  · exact .inl ⟨_, rfl⟩

theorem sendNextWord_cases (s : State) (c : SendCtx) (i : Nat) :
    (i < wordsOf c.cur.plen ∧ sendNextWord s c i = s.goto (.sendByte c i 0 0)) ∨
      sendNextWord s c i = s.goto (.sendNotify c) := by
  unfold sendNextWord
  split
  · exact .inl ⟨‹_›, rfl⟩
  · exact .inr rfl

theorem sendByte_cases (s : State) (c : SendCtx) (i b : Nat) (acc : Word) :
    ∃ acc', sendByte s c i b acc = s.goto (.sendByte c i (b + 1) acc') ∨
      sendByte s c i b acc = s.goto (.sendWord c i acc') := by
  unfold sendByte
  dsimp only
  split
  · exact ⟨_, .inl rfl⟩
  · exact ⟨_, .inr rfl⟩

theorem txSendNext_cases (s : State) (c : SendCtx) :
    txSendNext s c = s.ret .success ∨
      ∃ p ps, c.rest = p :: ps ∧ txSendNext s c = s.poll (.sendRoom { c with cur := p, rest := ps }) := by
  unfold txSendNext
  split
  · exact .inl rfl
  · exact .inr ⟨_, _, ‹_›, rfl⟩

theorem dbSendNext_cases (s : State) (c : SendCtx) :
    dbSendNext s c = s.ret .success ∨
      ∃ p ps, c.rest = p :: ps ∧ dbSendNext s c = s.poll (.dbIdle { c with cur := p, rest := ps }) := by
  unfold dbSendNext
  split
  · exact .inl rfl
  · exact .inr ⟨_, _, ‹_›, rfl⟩

theorem dbNextByte_cases (s : State) (c : SendCtx) (k : Nat) :
    (k < c.cur.plen ∧ dbNextByte s c k = s.goto (.dbRead c k)) ∨
      dbNextByte s c k = (s.emitWindow (4 + c.cur.plen)).goto (.dbRing c) := by
  unfold dbNextByte
  split
  · exact .inl ⟨‹_›, rfl⟩
  · exact .inr rfl

/-! ### RECV -/

theorem recvHeaderEnd_err_cases (s : State) (c : RecvCtx) (e : ResultCode) :
    recvHeaderEnd s c (.err e) = s.ret .noData ∨ recvHeaderEnd s c (.err e) = s.recvFail e c.moved := by
  simp only [recvHeaderEnd]
  split
  · exact .inl rfl
  · exact .inr rfl

theorem recvNextWord_cases (s : State) (c : RecvCtx) (p : RxPacket) :
    (p.i < wordsOf (headerLen p.hw) ∧ recvNextWord s c p = s.poll (.recvWord c p)) ∨
      recvNextWord s c p = s.goto (.recvCheck { c with total := c.total + headerLen p.hw } p.hw) := by
  unfold recvNextWord
  split
  · exact .inl ⟨‹_›, rfl⟩
  · exact .inr rfl

/-- A byte is written only while there is room; else the word is left, with or without the mark of a small buffer. -/
theorem recvNextByte_cases (s : State) (c : RecvCtx) (p : RxPacket) (w : Word) (b : Nat) :
    (c.n < c.max ∧ recvNextByte s c p w b = s.goto (.recvByte c p w b)) ∨
      ∃ small, recvNextByte s c p w b = recvNextWord s { c with small := small } { p with i := p.i + 1 } := by
  unfold recvNextByte
  split
  · split
    · exact .inl ⟨‹_›, rfl⟩
    · exact .inr ⟨_, rfl⟩
  · exact .inr ⟨c.small, rfl⟩

theorem recvCheck_cases (s : State) (c : RecvCtx) (hw : Word) :
    recvCheck s c hw = s.recvDone c hw ∨ recvCheck s c hw = s.poll (.recvHeader { c with first := false }) ∨
      recvCheck s c hw = s.recvFail .notReady c.moved := by
  unfold recvCheck
  split
  · split
    · exact .inl rfl
    · exact .inr (.inl rfl)
  · exact .inr (.inr rfl)

theorem dbEventEnd_ok_cases (s : State) (c : RecvCtx) :
    dbEventEnd s c .ok = s.goto (.dbInHeader c s.dbIn 0 0) ∨
      dbEventEnd s c .ok = s.recvFail .protocolError c.moved := by
  simp only [dbEventEnd]
  split
  · exact .inl rfl
  · exact .inr rfl

theorem dbEventEnd_err_cases (s : State) (c : RecvCtx) (e : ResultCode) :
    dbEventEnd s c (.err e) = s.ret .noData ∨ dbEventEnd s c (.err e) = s.recvFail .timeout c.moved := by
  simp only [dbEventEnd]
  split
  · exact .inl rfl
  · exact .inr rfl

/-- A byte is copied only while there is room; else the packet is consumed, with or without the mark of a small buffer. -/
theorem dbInNextByte_cases (s : State) (c : RecvCtx) (hw : Word) (k : Nat) :
    (k < (decodeHeader hw).len.toNat ∧ c.n < c.max ∧ dbInNextByte s c hw k = s.goto (.dbInRead c hw k)) ∨
      ∃ small, dbInNextByte s c hw k = s.goto (.dbInClear { c with small := small } hw) := by
  unfold dbInNextByte
  split
  · split
    · exact .inl ⟨‹_›, ‹_›, rfl⟩
    · exact .inr ⟨_, rfl⟩
  · exact .inr ⟨c.small, rfl⟩

/-- A header that passes the length checks announces no more than the window holds (44_doorbell.md R199). -/
theorem dbInCheck_cases (s : State) (c : RecvCtx) (d : Doorbell) (hw : Word) :
    ((decodeHeader hw).len.toNat ≤ s.cfg.dbMaxPay ∧ dbInCheck s c d hw = dbInNextByte s c hw 0) ∨
      dbInCheck s c d hw = s.recvFail .protocolError c.moved := by
  unfold dbInCheck
  split
  · rename_i hok
    simp only [doorbellHeaderOk, Bool.and_eq_true, decide_eq_true_eq] at hok
    exact .inl ⟨hok.left, rfl⟩
  · exact .inr rfl

theorem dbInClear_cases (s : State) (c : RecvCtx) (hw : Word) :
    ∃ c' : RecvCtx, c'.max = c.max ∧
      (dbInClear s c hw = s.clearDbIn.recvDone c' hw ∨ dbInClear s c hw = s.clearDbIn.poll (.dbEvent c')) := by
  refine ⟨{ c with total := c.total + (decodeHeader hw).len.toNat, first := false, moved := true }, rfl, ?_⟩
  unfold dbInClear
  dsimp only
  split
  · exact .inl rfl
  · exact .inr rfl

/-! ### The handshake -/

theorem hsRound_cases (s : State) (h : HsCtx) :
    hsRound s h = (s.emitWindow 0).goto (.hsRing h) ∨
      (0 < s.cfg.dbHsPayload.length ∧ hsRound s h = s.goto (.hsPayload h 0)) := by
  unfold hsRound
  split
  · exact .inl rfl
  · rename_i hne
    exact .inr ⟨List.length_pos_iff.mpr (by simpa using hne), rfl⟩

/-- Between two rounds or at the end of the handshake. -/
theorem hsAwait_cases (s : State) (h : HsCtx) :
    (∃ h', hsAwait s h = hsRound s h') ∨ hsAwait s h = s.linkResynced ∨ hsAwait s h = s.linkUp ∨
      hsAwait s h = s.poll (.hsAck h) := by
  unfold hsAwait hsRoundEnd
  split
  · split
    · exact .inl ⟨_, rfl⟩
    · split
      · exact .inr (.inl rfl)
      · exact .inr (.inr (.inl rfl))
  · exact .inr (.inr (.inr rfl))

theorem hsAckEnd_ok_cases (s : State) (h : HsCtx) :
    hsAckEnd s h .ok = s.goto (.hsAckClear h) ∨ hsAckEnd s h .ok = s.ret .protocolError := by
  simp only [hsAckEnd]
  split
  · exact .inl rfl
  · exact .inr rfl

theorem dbAckEnd_ok_cases (s : State) (c : SendCtx) :
    dbAckEnd s c .ok = s.goto (.dbAckClear c) ∨ dbAckEnd s c .ok = s.fail .protocolError c.moved := by
  simp only [dbAckEnd]
  split
  · exact .inl rfl
  · exact .inr rfl

end Sys2Proof.Machine
end

section
/-! The invariant of the machine (10_state.md R14, R17, R22, R31; 60_exceptions.md R215): every update keeps it, every
position that fits leads to positions that fit, and so every step of a safe state answers a safe state. -/

namespace Sys2Proof.Machine

/-! ### States that are safe wherever the engine stands -/

/-- A safe state, apart from the engine's position. -/
structure State.Sound (s : State) : Prop where
  cfg : s.cfg.wf = true
  inv : s.Inv

theorem State.Safe.sound {s : State} (h : s.Safe) : s.Sound := ⟨h.cfg, h.inv⟩

/-- The machine's invariant speaks of these fields only, and `RESULT` has to stay a code. -/
theorem State.Sound.congr {s t : State} (h : s.Sound) (hcfg : t.cfg = s.cfg) (hmsg : t.msgbuf = s.msgbuf)
    (hout : t.outMsg = s.outMsg) (hin : t.inMsg = s.inMsg) (hh : t.hcsr.depth = s.hcsr.depth)
    (hc : t.ccsr.depth = s.ccsr.depth) (hn : t.counter = s.counter) (hr : t.result.toNat ≤ 8) : t.Sound := by
  obtain ⟨hwf, hi⟩ := h
  refine ⟨hcfg ▸ hwf, ?_, ?_, ?_, ?_, ?_, ?_, ?_, ?_, hr⟩
  · rw [hmsg]; exact hi.msgbuf
  · rw [hout]; exact hi.outMsg
  · rw [hin]; exact hi.inMsg
  · rw [hout, hcfg]; exact hi.outWindow
  · rw [hin, hcfg]; exact hi.inWindow
  · rw [hh, hcfg]; exact hi.hdepth
  · rw [hc, hcfg]; exact hi.cdepth
  · rw [hn, hcfg]; exact hi.counter

/-- The numbers of the result codes end at 8 (60_exceptions.md R215). -/
theorem ResultCode.code_le (c : ResultCode) : c.code.toNat ≤ 8 := by cases c <;> decide

/-- A write inside a window leaves its cells inside the window. -/
theorem Memory.below_memWrite {m : Memory} {n a : Nat} (h : m.below n) (ha : a < n) (v : Byte) :
    Memory.below (memWrite m a v) n := by
  intro c hc
  rcases mem_memWrite hc with hc | rfl
  · exact h c hc
  · exact ha

section
variable {s : State} (h : s.Sound)
include h

/-! ### The updates of the engine -/

theorem State.Sound.emitWindow (n : Nat) : (s.emitWindow n).Sound :=
  h.congr rfl rfl rfl rfl rfl rfl rfl h.inv.result

theorem State.Sound.writeHcsr (a b c : Option Bool) : (s.writeHcsr a b c).Sound :=
  h.congr rfl rfl rfl rfl rfl rfl rfl h.inv.result

theorem State.Sound.writeDbOut (d : Doorbell) : (s.writeDbOut d).Sound :=
  h.congr rfl rfl rfl rfl rfl rfl rfl h.inv.result

theorem State.Sound.clearDbIn : s.clearDbIn.Sound :=
  h.congr rfl rfl rfl rfl rfl rfl rfl h.inv.result

theorem State.Sound.setComm (a b c : Bool) : (s.setComm a b c).Sound :=
  h.congr rfl rfl rfl rfl rfl rfl rfl h.inv.result

theorem State.Sound.writeRefclk (w : Word) : (s.writeRefclk w).Sound :=
  h.congr rfl rfl rfl rfl rfl rfl rfl h.inv.result

theorem State.Sound.txPush (w : Word) : (s.txPush w).Sound :=
  h.congr rfl rfl rfl rfl rfl rfl rfl h.inv.result

theorem State.Sound.rxPop : s.rxPop.Sound :=
  h.congr rfl rfl rfl rfl rfl rfl rfl h.inv.result

theorem State.Sound.setLink (l : LState) : (s.setLink l).Sound :=
  h.congr rfl rfl rfl rfl rfl rfl rfl h.inv.result

/-- The result registers may take any word. -/
theorem State.Sound.results (r0 r1 : Word) : ({ s with res0 := r0, res1 := r1 } : State).Sound :=
  h.congr rfl rfl rfl rfl rfl rfl rfl h.inv.result

theorem State.Sound.msgWrite (i : Nat) (b : Byte) : (s.msgWrite i b).Sound :=
  ⟨h.cfg, { h.inv with msgbuf := memWrite_wf h.inv.msgbuf i b }⟩

theorem State.Sound.outWindowWrite {i : Nat} (hi : i < windowSize s.cfg) (b : Byte) :
    ({ s with outMsg := memWrite s.outMsg i b } : State).Sound :=
  ⟨h.cfg, { h.inv with
    outMsg := memWrite_wf h.inv.outMsg i b
    outWindow := Memory.below_memWrite h.inv.outWindow hi b }⟩

theorem State.Sound.inWindowWrite {i : Nat} (hi : i < windowSize s.cfg) (b : Byte) :
    ({ s with inMsg := memWrite s.inMsg i b } : State).Sound :=
  ⟨h.cfg, { h.inv with
    inMsg := memWrite_wf h.inv.inMsg i b
    inWindow := Memory.below_memWrite h.inv.inWindow hi b }⟩

/-- Ticks are reduced modulo `2^CW` (20_memory.md R71). -/
theorem State.Sound.tick (n : Nat) : (s.tick n).Sound := by
  refine ⟨h.cfg, { h.inv with counter := ?_ }⟩
  rw [State.tick_counter, State.tick_cfg, BitVec.toNat_ofNat]
  exact Nat.lt_of_le_of_lt (Nat.mod_le _ _) (Nat.mod_lt _ (Nat.two_pow_pos _))

/-! ### The engine goes on, or the command ends -/

theorem State.Sound.safe_goto {p : Pos} (hp : p.fits s.cfg = true) : (s.goto p).Safe where
  cfg := h.cfg
  inv := (h.congr (t := s.goto p) rfl rfl rfl rfl rfl rfl rfl h.inv.result).inv
  pos := fun _ hq => Seq.busy.inj hq ▸ hp

theorem State.Sound.safe_poll {w : Wait} (hw : w.fits s.cfg = true) : (s.poll w).Safe := h.safe_goto hw

/-- A sound state whose engine stands at no position is safe. -/
theorem State.Sound.safe_of_not_busy (hq : ∀ p, s.seq ≠ .busy p) : s.Safe :=
  ⟨h.cfg, h.inv, fun p hp => absurd hp (hq p)⟩

theorem State.Sound.safe_ret (c : ResultCode) : (s.ret c).Safe :=
  State.Sound.safe_of_not_busy (h.congr rfl rfl rfl rfl rfl rfl rfl c.code_le) fun _ => nofun

theorem State.Sound.safe_fail (c : ResultCode) (moved : Bool) : (s.fail c moved).Safe :=
  State.Sound.safe_ret (s := s.abort c moved) (h.congr rfl rfl rfl rfl rfl rfl rfl h.inv.result) c

theorem State.Sound.safe_recvFail (c : ResultCode) (moved : Bool) : (s.recvFail c moved).Safe :=
  (h.results 0 s.res1).safe_fail c moved

theorem State.Sound.safe_recvDone (c : RecvCtx) (hw : Word) : (s.recvDone c hw).Safe :=
  State.Sound.safe_of_not_busy (h.congr rfl rfl rfl rfl rfl rfl rfl (ResultCode.code_le _)) fun _ => nofun

theorem State.Sound.safe_linkUp : s.linkUp.Safe := (h.setLink .ready).safe_ret .success

theorem State.Sound.safe_linkResynced : s.linkResynced.Safe :=
  State.Sound.safe_linkUp (s := { s with resync := false }) (h.congr rfl rfl rfl rfl rfl rfl rfl h.inv.result)

end

/-! ### The environment and the client -/

section
variable {s : State} (h : s.Sound)
include h

theorem State.Sound.consume : s.consume.Sound := by
  rcases s.consume_eq with e | e <;> rw [e]
  · exact h
  · exact h.congr rfl rfl rfl rfl rfl rfl rfl h.inv.result

theorem State.Sound.produce (w : Word) : (s.produce w).Sound :=
  h.congr rfl rfl rfl rfl rfl rfl rfl h.inv.result

theorem State.Sound.acceptReset : s.acceptReset.Sound := by
  unfold State.acceptReset
  split
  · exact h.congr rfl rfl rfl rfl rfl rfl rfl h.inv.result
  · exact h

theorem State.Sound.loopback : s.loopback.Sound := by
  unfold State.loopback
  split
  · exact h
  · split
    · exact h.consume.produce _
    · exact h

theorem State.Sound.whenDoorbell {t : State} (ht : t.Sound) : (s.whenDoorbell t).Sound := by
  unfold State.whenDoorbell
  split
  · exact ht
  · exact h

/-- Every move of the environment keeps the invariant: only ticks reach `COUNTER`, and a write of `IN_MSG` beyond the
window is not made (log 18). -/
theorem State.Sound.envMove (m : EnvMove) : (s.envMove m).Sound := by
  cases m with
  | consume => exact h.consume
  | produce w => exact h.produce w
  | acceptReset => exact h.acceptReset
  | loopback => exact h.loopback
  | ticks n => exact h.tick n
  | ccsrFlag f v =>
    have hdepth : (s.ccsr.withFlag v f).depth = s.ccsr.depth := by cases f <;> rfl
    exact h.congr rfl rfl rfl rfl rfl hdepth rfl h.inv.result
  | disturbRing ws =>
    simp only [State.envMove]
    split
    · exact h.congr rfl rfl rfl rfl rfl rfl rfl h.inv.result
    · exact h
  | loseTxWord i =>
    simp only [State.envMove]
    split
    · exact h.congr rfl rfl rfl rfl rfl rfl rfl h.inv.result
    · exact h
  | takeOut => exact h.whenDoorbell (h.congr rfl rfl rfl rfl rfl rfl rfl h.inv.result)
  | forceIn w => exact h.whenDoorbell (h.congr rfl rfl rfl rfl rfl rfl rfl h.inv.result)
  | writeInMsg i b =>
    refine h.whenDoorbell ?_
    split
    · rename_i hin
      exact h.inWindowWrite hin.right b
    · exact h
  | postIn w =>
    refine h.whenDoorbell ?_
    split
    · exact h.congr rfl rfl rfl rfl rfl rfl rfl h.inv.result
    · exact h
  | hcsrIs v => exact h.congr rfl rfl rfl rfl rfl rfl rfl h.inv.result
  | clearHcsrIg => exact h.congr rfl rfl rfl rfl rfl rfl rfl h.inv.result
  | disturbPointers cw cr hr => exact h.congr rfl rfl rfl rfl rfl rfl rfl h.inv.result
  | stsA w => exact h.congr rfl rfl rfl rfl rfl rfl rfl h.inv.result
  | stsB w => exact h.congr rfl rfl rfl rfl rfl rfl rfl h.inv.result

theorem State.Sound.envMoves (ms : List EnvMove) : (s.envMoves ms).Sound := by
  induction ms generalizing s with
  | nil => exact h
  | cons m ms ih => exact ih (h.envMove m)

theorem State.Sound.advance : s.advance.Sound := by
  unfold State.advance
  split
  · exact h
  · rename_i ms later _
    have hs : State.Sound { s with env := later } := h.congr rfl rfl rfl rfl rfl rfl rfl h.inv.result
    exact hs.envMoves ms

theorem State.Sound.clientMove (m : ClientMove) : (s.clientMove m).Sound := by
  cases m with
  | writeArg0 w => exact h.congr rfl rfl rfl rfl rfl rfl rfl h.inv.result
  | writeArg1 w => exact h.congr rfl rfl rfl rfl rfl rfl rfl h.inv.result
  | writeMsg i b => exact h.msgWrite i b
  | writeCmd w => exact h.congr rfl rfl rfl rfl rfl rfl rfl h.inv.result
  | skipUnless code n =>
    simp only [State.clientMove]
    split
    · exact h
    · exact h.congr rfl rfl rfl rfl rfl rfl rfl h.inv.result

theorem State.Sound.clientStep : s.clientStep.Sound := by
  unfold State.clientStep
  split
  · exact h
  · rename_i m ms _
    have hs : State.Sound { s with client := ms } := h.congr rfl rfl rfl rfl rfl rfl rfl h.inv.result
    exact hs.clientMove m

end

/-- A move of the client leaves an idle engine idle or writes a command (10_state.md R42). -/
theorem clientMove_seq (s : State) (m : ClientMove) : (s.clientMove m).seq = s.seq ∨ (s.clientMove m).seq = .issued := by
  cases m
  case writeCmd w => exact .inr rfl
  case skipUnless code n => simp only [State.clientMove]; split <;> exact .inl rfl
  all_goals exact .inl rfl

theorem clientStep_not_busy {s : State} (hq : s.seq = .idle) (p : Pos) : s.clientStep.seq ≠ .busy p := by
  unfold State.clientStep
  split
  · rw [hq]; nofun
  · rename_i m ms _
    rcases clientMove_seq { s with client := ms } m with e | e <;> rw [e]
    · rw [show ({ s with client := ms } : State).seq = .idle from hq]; nofun
    · nofun

@[simp] theorem clientStep_cfg (s : State) : s.clientStep.cfg = s.cfg := by
  unfold State.clientStep
  split
  · rfl
  · exact clientMove_cfg _ _

theorem idleStep_safe {s : State} (h : s.Sound) (hq : s.seq = .idle) : (idleStep s).Safe :=
  h.advance.clientStep.safe_of_not_busy (clientStep_not_busy (by rw [State.advance_seq, hq]))

/-! ### Positions that address the windows inside their size -/

/-- A SEND fits when the packet in hand and the packets after it do. -/
theorem SendCtx.fits_iff (c : Config) (x : SendCtx) :
    x.fits c = true ↔ ∀ p ∈ x.cur :: x.rest, p.plen ≤ c.dbMaxPay := by
  simp [SendCtx.fits]

theorem SendCtx.fits_next {c : Config} {x : SendCtx} (hx : x.fits c = true) {p : Packet} {ps : List Packet}
    (hr : x.rest = p :: ps) : SendCtx.fits c { x with cur := p, rest := ps } = true := by
  rw [SendCtx.fits_iff] at hx ⊢
  exact fun q hq => hx q (List.mem_cons_of_mem _ (hr ▸ hq))

theorem SendCtx.plen_le {c : Config} {x : SendCtx} (hx : x.fits c = true) : x.cur.plen ≤ c.dbMaxPay :=
  (SendCtx.fits_iff c x).mp hx _ (List.mem_cons_self ..)

/-- The handshake's payload fits the window of a legal configuration (44_doorbell.md R191). -/
theorem hsPayload_length_le_of_wf {c : Config} (h : c.wf = true) : c.dbHsPayload.length ≤ windowSize c := by
  obtain ⟨-, -, -, -, -, -, -, -, -, hdb⟩ := (config_wf_iff c).mp h
  simp only [Config.doorbellOk, Bool.and_eq_true, decide_eq_true_eq] at hdb
  obtain ⟨⟨⟨-, hlen⟩, -⟩, -⟩ := hdb
  exact hlen

theorem outWrite_of_lt {s : State} {i : Nat} (hi : i < windowSize s.cfg) (b : Byte) (k : State → State) :
    s.outWrite i b k = .next (k { s with outMsg := memWrite s.outMsg i b }) := if_pos hi

theorem inRead_of_lt {s : State} {i : Nat} (hi : i < windowSize s.cfg) (k : Byte → State) :
    s.inRead i k = .next (k (memRead s.inMsg i)) := if_pos hi

/-! ### The shared continuations keep a safe state -/

section
variable {s : State} (h : s.Sound)
include h

theorem State.Sound.txSendBegin (dst src : Byte) (len : Nat) : (txSendBegin s dst src len).Safe := by
  rcases txSendBegin_cases s dst src len with e | ⟨c, e⟩ <;> rw [e]
  · exact h.safe_ret _
  · exact h.safe_poll rfl

theorem State.Sound.dbSendBegin (dst src : Byte) (len : Nat) : (dbSendBegin s dst src len).Safe := by
  rcases dbSendBegin_cases s dst src len with e | ⟨c, hplan, e⟩ <;> rw [e]
  · exact h.safe_ret _
  · refine h.safe_poll ((SendCtx.fits_iff s.cfg c).mpr fun p hp => ?_)
    exact plen_le_of_mem_plan (hplan ▸ hp)

theorem State.Sound.gateEnd (g : GateCtx) (p : Path) (cat : Nat) : (gateEnd s g p cat).Safe := by
  rcases gateEnd_cases s g p cat with ⟨c, e⟩ | ⟨-, e⟩ | ⟨-, e⟩ <;> rw [e]
  · exact h.safe_ret _
  · exact h.txSendBegin _ _ _
  · exact h.dbSendBegin _ _ _

theorem State.Sound.sendNextWord (c : SendCtx) (i : Nat) : (sendNextWord s c i).Safe := by
  rcases sendNextWord_cases s c i with ⟨-, e⟩ | e <;> rw [e] <;> exact h.safe_goto rfl

theorem State.Sound.sendByte (c : SendCtx) (i b : Nat) (acc : Word) : (sendByte s c i b acc).Safe := by
  obtain ⟨acc', e | e⟩ := sendByte_cases s c i b acc <;> rw [e] <;> exact h.safe_goto rfl

theorem State.Sound.sendCheck (c : SendCtx) : (sendCheck s c).Safe := by
  unfold Machine.sendCheck
  split
  · rcases txSendNext_cases s c with e | ⟨p, ps, -, e⟩ <;> rw [e]
    · exact h.safe_ret _
    · exact h.safe_poll rfl
  · exact h.safe_fail _ _

theorem State.Sound.recvNextWord (c : RecvCtx) (p : RxPacket) : (recvNextWord s c p).Safe := by
  rcases recvNextWord_cases s c p with ⟨-, e⟩ | e <;> rw [e]
  · exact h.safe_poll rfl
  · exact h.safe_goto rfl

theorem State.Sound.recvNextByte (c : RecvCtx) (p : RxPacket) (w : Word) (b : Nat) :
    (recvNextByte s c p w b).Safe := by
  rcases recvNextByte_cases s c p w b with ⟨-, e⟩ | ⟨small, e⟩ <;> rw [e]
  · exact h.safe_goto rfl
  · exact h.recvNextWord _ _

theorem State.Sound.recvCheck (c : RecvCtx) (hw : Word) : (recvCheck s c hw).Safe := by
  rcases recvCheck_cases s c hw with e | e | e <;> rw [e]
  · exact h.safe_recvDone _ _
  · exact h.safe_poll rfl
  · exact h.safe_recvFail _ _

theorem State.Sound.hsRound (x : HsCtx) : (hsRound s x).Safe := by
  rcases hsRound_cases s x with e | ⟨hpos, e⟩ <;> rw [e]
  · exact (h.emitWindow 0).safe_goto rfl
  · exact h.safe_goto (decide_eq_true hpos)

theorem State.Sound.hsAwait (x : HsCtx) : (hsAwait s x).Safe := by
  rcases hsAwait_cases s x with ⟨x', e⟩ | e | e | e <;> rw [e]
  · exact h.hsRound x'
  · exact h.safe_linkResynced
  · exact h.safe_linkUp
  · exact h.safe_poll rfl

theorem State.Sound.dbSendNext {c : SendCtx} (hc : c.fits s.cfg = true) : (dbSendNext s c).Safe := by
  rcases dbSendNext_cases s c with e | ⟨p, ps, hr, e⟩ <;> rw [e]
  · exact h.safe_ret _
  · exact h.safe_poll (SendCtx.fits_next hc hr)

theorem State.Sound.dbNextByte {c : SendCtx} (hc : c.fits s.cfg = true) (k : Nat) : (dbNextByte s c k).Safe := by
  rcases dbNextByte_cases s c k with ⟨hk, e⟩ | e <;> rw [e]
  · exact h.safe_goto (by simp [Pos.fits, hc, hk])
  · exact (h.emitWindow _).safe_goto hc

theorem State.Sound.dbRing {c : SendCtx} (hc : c.fits s.cfg = true) : (dbRing s c).Safe := by
  unfold Machine.dbRing
  dsimp only
  split
  · exact (h.writeDbOut _).safe_poll hc
  · exact (h.writeDbOut _).dbSendNext hc

theorem State.Sound.dbInNextByte (c : RecvCtx) {hw : Word} (hlen : (decodeHeader hw).len.toNat ≤ s.cfg.dbMaxPay)
    (k : Nat) : (dbInNextByte s c hw k).Safe := by
  rcases dbInNextByte_cases s c hw k with ⟨hk, -, e⟩ | ⟨small, e⟩ <;> rw [e]
  · exact h.safe_goto (by simp [Pos.fits, hlen, hk])
  · exact h.safe_goto rfl

theorem State.Sound.dbInCheck (c : RecvCtx) (d : Doorbell) (hw : Word) : (dbInCheck s c d hw).Safe := by
  rcases dbInCheck_cases s c d hw with ⟨hlen, e⟩ | e <;> rw [e]
  · exact h.dbInNextByte c hlen 0
  · exact h.safe_recvFail _ _

theorem State.Sound.dbInClear (c : RecvCtx) (hw : Word) : (dbInClear s c hw).Safe := by
  obtain ⟨c', -, e | e⟩ := dbInClear_cases s c hw <;> rw [e]
  · exact h.clearDbIn.safe_recvDone c' hw
  · exact h.clearDbIn.safe_poll rfl

/-- What a command does with the answer of a wait keeps a safe state. -/
theorem State.Sound.waitEnd {w : Wait} (hw : w.fits s.cfg = true) (r : PollEnd) : (waitEnd s r w).Safe := by
  cases w with
  | initReady => cases r with
    | ok => exact h.safe_goto rfl
    | err e => exact h.safe_ret _
  | sendRoom c => cases r with
    | ok => exact h.safe_goto rfl
    | err e => exact h.safe_fail _ _
  | recvHeader c => cases r with
    | ok => exact h.safe_goto rfl
    | err e =>
      show (recvHeaderEnd s c (.err e)).Safe
      rcases recvHeaderEnd_err_cases s c e with e | e <;> rw [e]
      · exact h.safe_ret _
      · exact h.safe_recvFail _ _
  | recvWord c p => cases r with
    | ok => exact h.safe_goto rfl
    | err e => exact h.safe_recvFail _ _
  | resetAccepted => cases r with
    | ok => exact h.safe_poll rfl
    | err e => exact h.safe_ret _
  | resetReady => cases r with
    | ok => exact h.safe_goto rfl
    | err e => exact h.safe_ret _
  | hsIdle x => cases r with
    | ok => exact h.hsAwait _
    | err e => exact h.safe_ret _
  | hsAck x => cases r with
    | ok =>
      show (hsAckEnd s x .ok).Safe
      rcases hsAckEnd_ok_cases s x with e | e <;> rw [e]
      · exact h.safe_goto rfl
      · exact h.safe_ret _
    | err e => exact h.safe_ret _
  | dbIdle c => cases r with
    | ok => exact h.safe_goto (p := .dbHeader c 0) (by simpa [Pos.fits, Wait.fits] using hw)
    | err e => exact h.safe_fail _ _
  | dbDone c => cases r with
    | ok => exact h.safe_poll (w := .dbAck c) hw
    | err e => exact h.safe_fail _ _
  | dbAck c => cases r with
    | ok =>
      show (dbAckEnd s c .ok).Safe
      rcases dbAckEnd_ok_cases s c with e | e <;> rw [e]
      · exact h.safe_goto hw
      · exact h.safe_fail _ _
    | err e => exact h.safe_fail _ _
  | dbEvent c => cases r with
    | ok =>
      show (dbEventEnd s c .ok).Safe
      rcases dbEventEnd_ok_cases s c with e | e <;> rw [e]
      · exact h.safe_goto rfl
      · exact h.safe_recvFail _ _
    | err e =>
      show (dbEventEnd s c (.err e)).Safe
      rcases dbEventEnd_err_cases s c e with e | e <;> rw [e]
      · exact h.safe_ret _
      · exact h.safe_recvFail _ _

theorem State.Sound.pollCond {w : Wait} (hw : w.fits s.cfg = true) (t : Timer) : (pollCond s w t).Safe := by
  rcases pollCond_cases s w t with ⟨-, e⟩ | ⟨-, e⟩ | ⟨c, -, e⟩ <;> rw [e]
  · exact h.safe_goto hw
  · exact h.waitEnd hw _
  · exact h.waitEnd hw _

theorem State.Sound.pollNow {w : Wait} (hw : w.fits s.cfg = true) (t : Timer) : (pollNow s w t).Safe := by
  rcases pollNow_cases s w t with ⟨-, e⟩ | ⟨-, e⟩ <;> rw [e]
  · exact h.waitEnd hw _
  · exact h.safe_goto hw

/-! ### The positions that address a window (10_state.md R31) -/

theorem State.Sound.hsPayload (x : HsCtx) {k : Nat} (hk : k < s.cfg.dbHsPayload.length) :
    ∃ t, hsPayload s x k = .next t ∧ t.Safe := by
  have hwin : k < windowSize s.cfg := Nat.lt_of_lt_of_le hk (hsPayload_length_le_of_wf h.cfg)
  have hs := h.outWindowWrite hwin (s.cfg.dbHsPayload.getD k 0)
  unfold Machine.hsPayload
  rw [outWrite_of_lt hwin]
  refine ⟨_, rfl, ?_⟩
  split
  · exact hs.safe_goto (decide_eq_true ‹_›)
  · exact (hs.emitWindow _).safe_goto rfl

theorem State.Sound.dbHeader {c : SendCtx} (hc : c.fits s.cfg = true) {k : Nat} (hk : k < 4) :
    ∃ t, dbHeader s c k = .next t ∧ t.Safe := by
  have hwin : k < windowSize s.cfg := Nat.lt_of_lt_of_le hk (Nat.le_add_right ..)
  have hs := h.outWindowWrite hwin (headerByte (encodeHeader c.src c.dst (BitVec.ofNat 9 c.cur.plen) c.cur.mc) k)
  unfold Machine.dbHeader
  rw [outWrite_of_lt hwin]
  refine ⟨_, rfl, ?_⟩
  split
  · exact hs.safe_goto (p := .dbHeader c (k + 1)) (by simp [Pos.fits, hc]; omega)
  · exact hs.dbNextByte hc 0

theorem State.Sound.dbWrite {c : SendCtx} (hc : c.fits s.cfg = true) {k : Nat} (hk : k < c.cur.plen) (v : Byte) :
    ∃ t, dbWrite s c k v = .next t ∧ t.Safe := by
  have hwin : 4 + k < windowSize s.cfg :=
    Nat.add_lt_add_left (Nat.lt_of_lt_of_le hk (SendCtx.plen_le hc)) 4
  unfold Machine.dbWrite
  rw [outWrite_of_lt hwin]
  exact ⟨_, rfl, (h.outWindowWrite hwin v).dbNextByte hc _⟩

theorem State.Sound.dbInHeader (c : RecvCtx) (d : Doorbell) {k : Nat} (hk : k < 4) (acc : Word) :
    ∃ t, dbInHeader s c d k acc = .next t ∧ t.Safe := by
  unfold Machine.dbInHeader
  rw [inRead_of_lt (Nat.lt_of_lt_of_le hk (Nat.le_add_right ..))]
  refine ⟨_, rfl, ?_⟩
  split
  · exact h.safe_goto (p := .dbInHeader c d (k + 1) _) (by simp [Pos.fits]; omega)
  · exact h.dbInCheck _ _ _

theorem State.Sound.dbInRead (c : RecvCtx) {hw : Word} {k : Nat} (hlen : (decodeHeader hw).len.toNat ≤ s.cfg.dbMaxPay)
    (hk : k < (decodeHeader hw).len.toNat) : ∃ t, dbInRead s c hw k = .next t ∧ t.Safe := by
  unfold Machine.dbInRead
  rw [inRead_of_lt (Nat.add_lt_add_left (Nat.lt_of_lt_of_le hk hlen) 4)]
  exact ⟨_, rfl, h.safe_goto (by simp [Pos.fits, hlen, hk])⟩

/-! ### One atomic step, and the start of a command -/

/-- A step from a position that fits does not stop, and leads to a safe state. -/
theorem engineAct_safe {p : Pos} (hp : p.fits s.cfg = true) : ∃ t, engineAct s p = .next t ∧ t.Safe := by
  cases p with
  | hsPayload x k => exact h.hsPayload x (of_decide_eq_true hp)
  | dbHeader c k =>
    simp only [Pos.fits, Bool.and_eq_true, decide_eq_true_eq] at hp
    exact h.dbHeader hp.left hp.right
  | dbWrite c k v =>
    simp only [Pos.fits, Bool.and_eq_true, decide_eq_true_eq] at hp
    exact h.dbWrite hp.left hp.right v
  | dbInHeader c d k acc => exact h.dbInHeader c d (of_decide_eq_true hp) acc
  | dbInRead c hw k =>
    simp only [Pos.fits, Bool.and_eq_true, decide_eq_true_eq] at hp
    exact h.dbInRead c hp.left hp.right
  | dbInWrite c hw k v =>
    simp only [Pos.fits, Bool.and_eq_true, decide_eq_true_eq] at hp
    exact ⟨_, rfl, (h.msgWrite _ _).dbInNextByte _ hp.left _⟩
  | tstartNow us => exact ⟨_, rfl, (h.results _ _).safe_ret _⟩
  | texpiredNow t => exact ⟨_, rfl, (h.results _ s.res1).safe_ret _⟩
  | queryA q => exact ⟨_, rfl, h.safe_goto rfl⟩
  | queryB q a =>
    refine ⟨_, rfl, ?_⟩
    cases q with
    | path => exact (h.results _ s.res1).safe_ret _
    | hide => exact (h.results _ _).safe_ret _
    | allow => exact (h.results _ _).safe_ret _
  | gateA g => exact ⟨_, rfl, h.safe_goto rfl⟩
  | gateB g a =>
    refine ⟨_, rfl, ?_⟩
    unfold gateB
    dsimp only
    split
    · exact h.safe_goto rfl
    · exact h.gateEnd _ _ _
  | gateGroup g x => exact ⟨_, rfl, h.safe_goto rfl⟩
  | gateCommand g x group => exact ⟨_, rfl, h.gateEnd _ _ _⟩
  | pollStart w => exact ⟨_, rfl, h.safe_goto hp⟩
  | pollCond w t => exact ⟨_, rfl, h.pollCond hp t⟩
  | pollNow w t => exact ⟨_, rfl, h.pollNow hp t⟩
  | initWrite => exact ⟨_, rfl, (h.writeHcsr _ _ _).safe_linkUp⟩
  | sendHeader c => exact ⟨_, rfl, (h.txPush _).sendNextWord _ _⟩
  | sendByte c i b acc => exact ⟨_, rfl, h.sendByte c i b acc⟩
  | sendWord c i w => exact ⟨_, rfl, (h.txPush _).sendNextWord _ _⟩
  | sendNotify c => exact ⟨_, rfl, (h.writeHcsr _ _ _).safe_goto rfl⟩
  | sendCheck c => exact ⟨_, rfl, h.sendCheck c⟩
  | recvPopHeader c => exact ⟨_, rfl, h.rxPop.recvNextWord _ _⟩
  | recvPopWord c x => exact ⟨_, rfl, h.rxPop.recvNextByte _ _ _ _⟩
  | recvByte c x w b => exact ⟨_, rfl, (h.msgWrite _ _).recvNextByte _ _ _ _⟩
  | recvCheck c hw => exact ⟨_, rfl, h.recvCheck c hw⟩
  | lresetBegin => exact ⟨_, rfl, (h.writeHcsr _ _ _).safe_poll rfl⟩
  | lresetEnd => exact ⟨_, rfl, (h.writeHcsr _ _ _).safe_linkResynced⟩
  | hsClearIn x => exact ⟨_, rfl, h.clearDbIn.safe_goto rfl⟩
  | hsHostReady x => exact ⟨_, rfl, (h.setComm _ _ _).safe_goto rfl⟩
  | hsRefclk x => exact ⟨_, rfl, (h.writeRefclk _).safe_goto rfl⟩
  | hsLoaded x => exact ⟨_, rfl, (h.setComm _ _ _).safe_goto rfl⟩
  | hsReady x => exact ⟨_, rfl, (h.setComm _ _ _).hsRound x⟩
  | hsRing x => exact ⟨_, rfl, (h.writeDbOut _).safe_poll rfl⟩
  | hsAckClear x => exact ⟨_, rfl, h.clearDbIn.hsAwait _⟩
  | dbRead c k => exact ⟨_, rfl, h.safe_goto hp⟩
  | dbRing c => exact ⟨_, rfl, h.dbRing hp⟩
  | dbAckClear c => exact ⟨_, rfl, h.clearDbIn.dbSendNext hp⟩
  | dbInClear c hw => exact ⟨_, rfl, h.dbInClear c hw⟩

theorem State.Sound.hsBegin (reset : Bool) : (hsBegin s reset).Safe := h.safe_goto rfl

theorem State.Sound.beginInit : (beginInit s).Safe := by
  unfold Machine.beginInit
  split
  · split
    · exact h.safe_ret _
    · exact h.safe_ret _
    · split
      · exact h.safe_poll rfl
      · exact h.hsBegin _
  · exact h.safe_ret _

theorem State.Sound.beginRecv (blk : Bool) : (beginRecv blk s).Safe := by
  unfold Machine.beginRecv
  split
  · split
    · split <;> exact h.safe_poll rfl
    · exact h.safe_ret _
  · exact h.safe_ret _

theorem State.Sound.beginLreset : (beginLreset s).Safe := by
  unfold Machine.beginLreset
  split
  · split
    · exact h.safe_ret _
    · split
      · exact (h.setLink _).safe_goto rfl
      · exact (h.setLink _).hsBegin _
  · exact h.safe_ret _

theorem State.Sound.beginQuery (q : Query) : (beginQuery q s).Safe := by
  unfold Machine.beginQuery
  split
  · exact h.safe_goto rfl
  · exact h.safe_ret _

/-- Every command starts at a position that fits, or has ended. -/
theorem beginCommand_safe (i : Instr) : (beginCommand i s).Safe := by
  cases i with
  | tstart =>
    show (beginTstart s).Safe
    unfold beginTstart
    split
    · exact h.safe_goto rfl
    · exact h.safe_ret _
  | texpired =>
    show (beginTexpired s).Safe
    unfold beginTexpired
    split
    · exact h.safe_goto rfl
    · exact h.safe_ret _
  | send a b =>
    show (beginSend a b s).Safe
    unfold beginSend
    split
    · exact h.safe_goto rfl
    · exact h.safe_ret _
  | init => exact h.beginInit
  | recv blk => exact h.beginRecv blk
  | lreset => exact h.beginLreset
  | classify => exact h.beginQuery _
  | hidemask => exact h.beginQuery _
  | allowmask => exact h.beginQuery _

end

/-- A run from a safe state goes on to a safe state of the same configuration: the environment keeps the position and the
invariant, and each atomic step from there is safe. -/
theorem runCommand_safe {s : State} (h : s.Safe) : ∃ t, runCommand s = .next t ∧ t.Safe ∧ t.cfg = s.cfg := by
  refine engineRun_progress (P := fun u => u.Safe ∧ u.cfg = s.cfg) ?_ runBound ⟨h, rfl⟩
  rintro u p hq ⟨hu, hcfg⟩
  have hp : p.fits u.advance.cfg = true := by rw [State.advance_cfg]; exact hu.pos p hq
  obtain ⟨t, ht, hsafe⟩ := engineAct_safe hu.sound.advance hp
  refine ⟨t, ht, hsafe, ?_⟩
  rw [(engineAct_frame rfl ht).cfg, State.advance_cfg, hcfg]

/-- A command written in a safe state starts and runs, or ends as an illegal word. -/
theorem startCommand_safe {s : State} (h : s.Sound) : ∃ t, startCommand s = .next t ∧ t.Safe ∧ t.cfg = s.cfg := by
  cases hd : decodeWord s.cmd with
  | error e => exact ⟨_, startCommand_of_illegal hd, h.safe_ret _, rfl⟩
  | ok i =>
    rw [startCommand_of_legal hd, exec_eq_run, ← beginCommand_cfg i s]
    exact runCommand_safe (beginCommand_safe h i)

/-- Settles O9, by what the sequencer holds: an idle step, a start, or a run that goes on. -/
theorem safeStepsGoOn : Obligations.SafeStepsGoOn := by
  intro s h
  cases hq : s.seq with
  | idle =>
    refine ⟨_, step_of_idle h.cfg hq, idleStep_safe h.sound hq, ?_⟩
    unfold idleStep
    rw [clientStep_cfg, State.advance_cfg]
  | issued =>
    rw [step_of_issued h.cfg hq]
    exact startCommand_safe h.sound
  | busy p =>
    rw [step_of_busy h.cfg hq]
    exact runCommand_safe h

end Sys2Proof.Machine
end

section
/-! The rings of a circular link (10_state.md R19): the filled counts follow the rings under every push, pop, consumption,
production and accepted reset, and each position finds the room or the word that an earlier one has established. -/

namespace Sys2Proof.Machine

/-! ### The filled count of a register (41_codec.md R130) -/

theorem filled_wp_succ {c : Csr} (h : filled c < 255) : filled { c with wp := c.wp + 1 } = filled c + 1 := by
  simp only [filled] at *
  bv_omega

theorem filled_rp_succ {c : Csr} (h : 0 < filled c) : filled { c with rp := c.rp + 1 } = filled c - 1 := by
  simp only [filled] at *
  bv_omega

/-! ### Counted rings under each update -/

/-- The filled counts depend on the pointers, the depths and the rings only. -/
theorem State.RingsCounted.congr {s t : State} (h : s.RingsCounted) (hcfg : t.cfg = s.cfg)
    (htx : t.txring = s.txring) (hrx : t.rxring = s.rxring) (hh : filled t.hcsr = filled s.hcsr)
    (hhd : t.hcsr.depth = s.hcsr.depth) (hc : filled t.ccsr = filled s.ccsr) (hcd : t.ccsr.depth = s.ccsr.depth)
    (hready : t.lstate = .ready → t.hcsr.rst = false) : t.RingsCounted where
  tx := by rw [hh, htx, h.tx]
  txFits := by rw [htx, hhd]; exact h.txFits
  rx := by rw [hc, hrx, h.rx]
  rxFits := by rw [hrx, hcd]; exact h.rxFits
  cdepth := by rw [hcd, hcfg, h.cdepth]
  ready := hready

section
variable {s : State} (h : s.RingsCounted)
include h

/-- `TxPush` into a ring with room (20_memory.md R56). -/
theorem State.RingsCounted.txPush (hroom : s.txring.length < s.hcsr.depth.toNat) (w : Word) :
    (s.txPush w).RingsCounted where
  tx := by
    have hlt : filled s.hcsr < 255 := by rw [h.tx]; exact Nat.lt_of_lt_of_le hroom (Nat.le_of_lt_succ s.hcsr.depth.isLt)
    rw [State.txPush_hcsr, filled_wp_succ hlt, h.tx, State.txPush_txring, List.length_append, List.length_singleton]
  txFits := by rw [State.txPush_txring, List.length_append, List.length_singleton]; exact hroom
  rx := h.rx
  rxFits := h.rxFits
  cdepth := h.cdepth
  ready := h.ready

/-- `RxPop` from a ring that holds a word (20_memory.md R57). -/
theorem State.RingsCounted.rxPop (hne : s.rxring ≠ []) : s.rxPop.RingsCounted where
  tx := h.tx
  txFits := h.txFits
  rx := by
    have hpos : 0 < filled s.ccsr := by rw [h.rx]; exact List.length_pos_iff.mpr hne
    rw [State.rxPop_ccsr, filled_rp_succ hpos, h.rx, State.rxPop_rxring, List.length_tail]
  rxFits := by rw [State.rxPop_rxring, List.length_tail]; exact Nat.le_trans (Nat.sub_le _ _) h.rxFits
  cdepth := h.cdepth
  ready := h.ready

/-- The controller takes a word (20_memory.md R66). -/
theorem State.RingsCounted.consume : s.consume.RingsCounted := by
  unfold State.consume
  split
  · exact h
  · rename_i w rest hcons
    have htx := h.tx
    have hfits := h.txFits
    rw [hcons, List.length_cons] at htx hfits
    refine ⟨?_, Nat.le_of_succ_le hfits, h.rx, h.rxFits, h.cdepth, h.ready⟩
    rw [filled_rp_succ (by omega), htx, Nat.add_sub_cancel]

/-- The controller appends a word while there is room (20_memory.md R67, R73 W1). -/
theorem State.RingsCounted.produce (hroom : s.rxring.length < s.cfg.cdepth.toNat) (w : Word) :
    (s.produce w).RingsCounted where
  tx := h.tx
  txFits := h.txFits
  rx := by
    have hlt : filled s.ccsr < 255 := by
      rw [h.rx]; exact Nat.lt_of_lt_of_le hroom (Nat.le_of_lt_succ s.cfg.cdepth.isLt)
    rw [State.produce_ccsr, filled_wp_succ hlt, h.rx, State.produce_rxring, List.length_append, List.length_singleton]
  rxFits := by
    rw [State.produce_rxring, State.produce_ccsr, h.cdepth, List.length_append, List.length_singleton]
    exact hroom
  cdepth := h.cdepth
  ready := h.ready

/-- An accepted reset empties both rings and zeroes the four pointers (20_memory.md R69). -/
theorem State.RingsCounted.acceptReset : s.acceptReset.RingsCounted := by
  unfold State.acceptReset
  split
  · exact ⟨by simp [filled], Nat.zero_le _, by simp [filled], Nat.zero_le _, h.cdepth, h.ready⟩
  · exact h

/-- `RegWrite(HCSR)` moves no pointer; the reset flag may be set only away from `READY` (42_cb_transport.md R152). -/
theorem State.RingsCounted.writeHcsr {rst rdy ig : Option Bool}
    (hready : s.lstate = .ready → rst.getD s.hcsr.rst = false) : (s.writeHcsr rst rdy ig).RingsCounted :=
  h.congr rfl rfl rfl rfl rfl rfl rfl hready

/-- The result registers may take any word. -/
theorem State.RingsCounted.results (r0 r1 : Word) : ({ s with res0 := r0, res1 := r1 } : State).RingsCounted :=
  h.congr rfl rfl rfl rfl rfl rfl rfl h.ready

theorem State.RingsCounted.msgWrite (i : Nat) (b : Byte) : (s.msgWrite i b).RingsCounted :=
  h.congr rfl rfl rfl rfl rfl rfl rfl h.ready

/-- `LSTATE` may become `READY` only with no reset pending. -/
theorem State.RingsCounted.setLink {l : LState} (hready : l = .ready → s.hcsr.rst = false) :
    (s.setLink l).RingsCounted :=
  h.congr rfl rfl rfl rfl rfl rfl rfl hready

end

/-! ### What a position relies on -/

/-- Nothing that a position relies on is lost: `TXRING` has not grown, and without a pending reset `RXRING` has not become
empty. -/
structure RingsHold (s t : State) : Prop where
  cfg : t.cfg = s.cfg
  lstate : t.lstate = s.lstate
  rst : t.hcsr.rst = s.hcsr.rst
  depth : t.hcsr.depth = s.hcsr.depth
  tx : t.txring.length ≤ s.txring.length
  rx : s.hcsr.rst = false → s.rxring ≠ [] → t.rxring ≠ []

theorem Wait.ringsReady_of_hold {s t : State} (h : RingsHold s t) {w : Wait} (hw : w.ringsReady s) :
    w.ringsReady t := by
  cases w with
  | recvHeader c => exact h.rst.trans hw
  | recvWord c p => exact h.rst.trans hw
  | resetAccepted => exact h.lstate.trans hw
  | resetReady => exact h.lstate.trans hw
  | _ => exact hw

theorem Pos.ringsReady_of_hold {s t : State} (h : RingsHold s t) {p : Pos} (hp : p.ringsReady s) :
    p.ringsReady t := by
  have htx := h.tx
  have hkind : t.cfg.kind = s.cfg.kind := by rw [h.cfg]
  cases p with
  | pollStart w => exact Wait.ringsReady_of_hold h hp
  | pollCond w x => exact Wait.ringsReady_of_hold h hp
  | pollNow w x => exact Wait.ringsReady_of_hold h hp
  | recvPopHeader c => exact ⟨h.rst.trans hp.left, h.rx hp.left hp.right⟩
  | recvPopWord c x => exact ⟨h.rst.trans hp.left, h.rx hp.left hp.right⟩
  | sendHeader c => simp only [Pos.ringsReady, h.depth] at hp ⊢; omega
  | sendByte c i b acc => simp only [Pos.ringsReady, h.depth] at hp ⊢; omega
  | sendWord c i w => simp only [Pos.ringsReady, h.depth] at hp ⊢; omega
  | gateA g => exact hkind.trans hp
  | gateB g a => exact hkind.trans hp
  | gateGroup g x => exact hkind.trans hp
  | gateCommand g x group => exact hkind.trans hp
  | recvByte c x w b => exact h.rst.trans hp
  | recvCheck c hw => exact h.rst.trans hp
  | lresetBegin => exact h.lstate.trans hp
  | lresetEnd => exact h.lstate.trans hp
  | _ => exact hp

/-! ### The engine goes on, or the command ends -/

section
variable {s : State} (h : s.RingsCounted)
include h

theorem State.RingsCounted.kept_goto {p : Pos} (hp : p.ringsReady s) : (s.goto p).RingsKept where
  counted := h.congr rfl rfl rfl rfl rfl rfl rfl h.ready
  pos := by
    intro q hq
    obtain rfl : p = q := Seq.busy.inj hq
    exact Pos.ringsReady_of_hold ⟨rfl, rfl, rfl, rfl, Nat.le_refl _, fun _ => id⟩ hp

theorem State.RingsCounted.kept_poll {w : Wait} (hw : w.ringsReady s) : (s.poll w).RingsKept := h.kept_goto hw

theorem State.RingsCounted.kept_of_not_busy (hq : ∀ p, s.seq ≠ .busy p) : s.RingsKept :=
  ⟨h, fun p hp => absurd hp (hq p)⟩

theorem State.RingsCounted.kept_ret (c : ResultCode) : (s.ret c).RingsKept :=
  State.RingsCounted.kept_of_not_busy (h.congr rfl rfl rfl rfl rfl rfl rfl h.ready) fun _ => nofun

/-- `fail` leaves `LSTATE` alone or takes it to `RESETTING` (60_exceptions.md R223). -/
theorem State.RingsCounted.kept_fail (c : ResultCode) (moved : Bool) : (s.fail c moved).RingsKept := by
  refine State.RingsCounted.kept_of_not_busy (h.congr rfl rfl rfl rfl rfl rfl rfl fun hl => ?_) fun _ => nofun
  rw [State.fail_lstate] at hl
  split at hl
  · cases hl
  · exact h.ready hl

theorem State.RingsCounted.kept_recvFail (c : ResultCode) (moved : Bool) : (s.recvFail c moved).RingsKept :=
  (h.results 0 s.res1).kept_fail c moved

theorem State.RingsCounted.kept_recvDone (c : RecvCtx) (hw : Word) : (s.recvDone c hw).RingsKept :=
  State.RingsCounted.kept_of_not_busy (h.congr rfl rfl rfl rfl rfl rfl rfl h.ready) fun _ => nofun

/-- INIT and LRESET end `READY` with the reset flag cleared. -/
theorem State.RingsCounted.kept_linkUp (hrst : s.hcsr.rst = false) : s.linkUp.RingsKept :=
  (h.setLink fun _ => hrst).kept_ret .success

theorem State.RingsCounted.kept_linkResynced (hrst : s.hcsr.rst = false) : s.linkResynced.RingsKept :=
  State.RingsCounted.kept_linkUp (s := { s with resync := false })
    (h.congr rfl rfl rfl rfl rfl rfl rfl h.ready) hrst

/-! ### The shared continuations keep counted rings -/

theorem State.RingsCounted.txSendBegin (dst src : Byte) (len : Nat) : (txSendBegin s dst src len).RingsKept := by
  rcases txSendBegin_cases s dst src len with e | ⟨c, e⟩ <;> rw [e]
  · exact h.kept_ret _
  · exact h.kept_poll trivial

/-- On a circular link the gate leads to a circular transfer. -/
theorem State.RingsCounted.gateEnd (hk : s.cfg.kind = .circular) (g : GateCtx) (p : Path) (cat : Nat) :
    (gateEnd s g p cat).RingsKept := by
  rcases gateEnd_cases s g p cat with ⟨c, e⟩ | ⟨-, e⟩ | ⟨hdb, -⟩
  · rw [e]; exact h.kept_ret _
  · rw [e]; exact h.txSendBegin _ _ _
  · rw [hk] at hdb; cases hdb

/-- The words still to be pushed have room. -/
theorem State.RingsCounted.sendNextWord {c : SendCtx} {i : Nat}
    (hroom : s.txring.length + (wordsOf c.cur.plen - i) ≤ s.hcsr.depth.toNat) : (sendNextWord s c i).RingsKept := by
  rcases sendNextWord_cases s c i with ⟨hi, e⟩ | e <;> rw [e]
  · exact h.kept_goto ⟨hi, hroom⟩
  · exact h.kept_goto trivial

/-- A push uses one word of the room that was found. -/
theorem State.RingsCounted.pushThenNext {c : SendCtx} {i : Nat}
    (hroom : s.txring.length + 1 + (wordsOf c.cur.plen - i) ≤ s.hcsr.depth.toNat) (w : Word) :
    (Machine.sendNextWord (s.txPush w) c i).RingsKept := by
  refine (h.txPush (by omega) w).sendNextWord ?_
  rw [State.txPush_txring, List.length_append, List.length_singleton]
  exact hroom

theorem State.RingsCounted.sendByte {c : SendCtx} {i : Nat} (b : Nat) (acc : Word)
    (hp : Pos.ringsReady s (.sendByte c i b acc)) : (sendByte s c i b acc).RingsKept := by
  obtain ⟨acc', e | e⟩ := sendByte_cases s c i b acc <;> rw [e] <;> exact h.kept_goto hp

theorem State.RingsCounted.sendCheck (c : SendCtx) : (sendCheck s c).RingsKept := by
  unfold Machine.sendCheck
  split
  · rcases txSendNext_cases s c with e | ⟨p, ps, -, e⟩ <;> rw [e]
    · exact h.kept_ret _
    · exact h.kept_poll trivial
  · exact h.kept_fail _ _

theorem State.RingsCounted.recvNextWord (hrst : s.hcsr.rst = false) (c : RecvCtx) (p : RxPacket) :
    (recvNextWord s c p).RingsKept := by
  rcases recvNextWord_cases s c p with ⟨-, e⟩ | e <;> rw [e]
  · exact h.kept_poll hrst
  · exact h.kept_goto hrst

theorem State.RingsCounted.recvNextByte (hrst : s.hcsr.rst = false) (c : RecvCtx) (p : RxPacket) (w : Word) (b : Nat) :
    (recvNextByte s c p w b).RingsKept := by
  rcases recvNextByte_cases s c p w b with ⟨-, e⟩ | ⟨small, e⟩ <;> rw [e]
  · exact h.kept_goto hrst
  · exact h.recvNextWord hrst _ _

theorem State.RingsCounted.recvCheck (hrst : s.hcsr.rst = false) (c : RecvCtx) (hw : Word) :
    (recvCheck s c hw).RingsKept := by
  rcases recvCheck_cases s c hw with e | e | e <;> rw [e]
  · exact h.kept_recvDone _ _
  · exact h.kept_poll hrst
  · exact h.kept_recvFail _ _

/-! ### Waits -/

/-- A wait for room that answers OK has found the room for the whole packet (42_cb_transport.md R142). -/
theorem State.RingsCounted.room_of_cond {need : Nat} (hc : txSpaceCond s need = .ok) :
    s.txring.length + need ≤ s.hcsr.depth.toNat := by
  have hfits := h.txFits
  unfold txSpaceCond at hc
  split at hc
  · cases hc
  · split at hc
    · rename_i hneed
      rw [space, h.tx] at hneed
      omega
    · cases hc

/-- A wait for a word that answers OK has found one (42_cb_transport.md R146). -/
theorem State.RingsCounted.word_of_cond (hc : rxWordCond s = .ok) : s.rxring ≠ [] := by
  unfold rxWordCond at hc
  split at hc
  · cases hc
  · split at hc
    · rename_i hone
      rw [h.rx] at hone
      exact List.length_pos_iff.mp hone
    · cases hc

/-- A wait whose condition holds leads to a position that finds what the wait has waited for. -/
theorem State.RingsCounted.waitEnd_ok {w : Wait} (hw : w.ringsReady s) (hc : waitCond s w = .ok) :
    (waitEnd s .ok w).RingsKept := by
  cases w with
  | initReady => exact h.kept_goto trivial
  | sendRoom c => exact h.kept_goto (h.room_of_cond hc)
  | recvHeader c => exact h.kept_goto ⟨hw, h.word_of_cond hc⟩
  | recvWord c p => exact h.kept_goto ⟨hw, h.word_of_cond hc⟩
  | resetAccepted => exact h.kept_poll hw
  | resetReady => exact h.kept_goto hw
  | _ => exact hw.elim

/-- A wait that answers an error ends its command. -/
theorem State.RingsCounted.waitEnd_err {w : Wait} (hw : w.ringsReady s) (c : ResultCode) :
    (waitEnd s (.err c) w).RingsKept := by
  cases w with
  | initReady => exact h.kept_ret _
  | sendRoom x => exact h.kept_fail _ _
  | recvHeader x =>
    show (recvHeaderEnd s x (.err c)).RingsKept
    rcases recvHeaderEnd_err_cases s x c with e | e <;> rw [e]
    · exact h.kept_ret _
    · exact h.kept_recvFail _ _
  | recvWord x p => exact h.kept_recvFail _ _
  | resetAccepted => exact h.kept_ret _
  | resetReady => exact h.kept_ret _
  | _ => exact hw.elim

theorem State.RingsCounted.pollCond {w : Wait} (hw : w.ringsReady s) (t : Timer) : (pollCond s w t).RingsKept := by
  rcases pollCond_cases s w t with ⟨-, e⟩ | ⟨hc, e⟩ | ⟨c, -, e⟩ <;> rw [e]
  · exact h.kept_goto hw
  · exact h.waitEnd_ok hw hc
  · exact h.waitEnd_err hw c

theorem State.RingsCounted.pollNow {w : Wait} (hw : w.ringsReady s) (t : Timer) : (pollNow s w t).RingsKept := by
  rcases pollNow_cases s w t with ⟨-, e⟩ | ⟨-, e⟩ <;> rw [e]
  · exact h.waitEnd_err hw _
  · exact h.kept_goto hw

/-! ### One atomic step, and the start of a command -/

/-- A step from a position that finds its room or its word keeps the rings counted; the doorbell positions promise
nothing of the rings. -/
theorem engineAct_ringsKept {t : State} {p : Pos} (hp : p.ringsReady s) (ha : engineAct s p = .next t) :
    t.RingsKept := by
  cases p with
  | tstartNow us =>
    cases ha
    exact (h.results _ _).kept_ret _
  | texpiredNow x =>
    cases ha
    exact (h.results _ s.res1).kept_ret _
  | queryA q => cases ha; exact h.kept_goto trivial
  | queryB q a =>
    cases ha
    cases q with
    | path => exact (h.results _ s.res1).kept_ret _
    | hide => exact (h.results _ _).kept_ret _
    | allow => exact (h.results _ _).kept_ret _
  | gateA g => cases ha; exact h.kept_goto hp
  | gateB g a =>
    cases ha
    unfold gateB
    dsimp only
    split
    · exact h.kept_goto hp
    · exact h.gateEnd hp _ _ _
  | gateGroup g x => cases ha; exact h.kept_goto hp
  | gateCommand g x group => cases ha; exact h.gateEnd hp _ _ _
  | pollStart w => cases ha; exact h.kept_goto hp
  | pollCond w x => cases ha; exact h.pollCond hp x
  | pollNow w x => cases ha; exact h.pollNow hp x
  | initWrite => cases ha; exact (h.writeHcsr fun _ => rfl).kept_linkUp rfl
  | sendHeader c =>
    cases ha
    simp only [Pos.ringsReady, packetNeed] at hp
    have hroom : s.txring.length + 1 + (wordsOf c.cur.plen - 0) ≤ s.hcsr.depth.toNat := by omega
    exact h.pushThenNext (c := { c with moved := true }) hroom _
  | sendByte c i b acc => cases ha; exact h.sendByte b acc hp
  | sendWord c i w =>
    cases ha
    simp only [Pos.ringsReady] at hp
    have hroom : s.txring.length + 1 + (wordsOf c.cur.plen - (i + 1)) ≤ s.hcsr.depth.toNat := by omega
    exact h.pushThenNext (c := { c with moved := true }) hroom _
  | sendNotify c => cases ha; exact (h.writeHcsr (rst := none) h.ready).kept_goto trivial
  | sendCheck c => cases ha; exact h.sendCheck c
  | recvPopHeader c => cases ha; exact (h.rxPop hp.right).recvNextWord hp.left _ _
  | recvPopWord c x => cases ha; exact (h.rxPop hp.right).recvNextByte hp.left _ _ _ _
  | recvByte c x w b =>
    cases ha
    exact (h.msgWrite _ _).recvNextByte hp _ _ _ _
  | recvCheck c hw => cases ha; exact h.recvCheck hp c hw
  | lresetBegin =>
    cases ha
    have hl : s.lstate = .resetting := hp
    exact (h.writeHcsr fun hr => by rw [hl] at hr; cases hr).kept_poll hl
  | lresetEnd => cases ha; exact (h.writeHcsr fun _ => rfl).kept_linkResynced rfl
  | _ => exact hp.elim

/-- A command of a circular link starts at a position that relies on no room and no word yet. A RECV starts only at
`READY`, where no reset is pending; LRESET leaves `READY` before it asks for one. -/
theorem beginCommand_ringsKept (hk : s.cfg.kind = .circular) (i : Instr) : (beginCommand i s).RingsKept := by
  have query (q : Query) : (beginQuery q s).RingsKept := by
    unfold beginQuery
    split
    · exact h.kept_goto trivial
    · exact h.kept_ret _
  cases i with
  | tstart =>
    show (beginTstart s).RingsKept
    unfold beginTstart
    split
    · exact h.kept_goto trivial
    · exact h.kept_ret _
  | texpired =>
    show (beginTexpired s).RingsKept
    unfold beginTexpired
    split
    · exact h.kept_goto trivial
    · exact h.kept_ret _
  | init =>
    show (beginInit s).RingsKept
    unfold beginInit
    rw [hk]
    split
    · split
      · exact h.kept_ret _
      · exact h.kept_ret _
      · exact h.kept_poll trivial
    · exact h.kept_ret _
  | send a b =>
    show (beginSend a b s).RingsKept
    unfold beginSend
    split
    · exact h.kept_goto hk
    · exact h.kept_ret _
  | recv blk =>
    show (beginRecv blk s).RingsKept
    unfold beginRecv
    rw [hk]
    split
    · split
      · exact h.kept_poll (h.ready ‹_›)
      · exact h.kept_ret _
    · exact h.kept_ret _
  | lreset =>
    show (beginLreset s).RingsKept
    unfold beginLreset
    rw [hk]
    split
    · split
      · exact h.kept_ret _
      · exact (h.setLink (l := .resetting) nofun).kept_goto rfl
    · exact h.kept_ret _
  | classify => exact query _
  | hidemask => exact query _
  | allowmask => exact query _

end

/-! ### The client and the environment -/

/-- Nothing the client writes concerns the rings or the link. -/
theorem clientMove_ringsKept {s : State} (h : s.RingsKept) (hq : s.seq = .idle) (m : ClientMove) :
    (s.clientMove m).RingsKept := by
  have counted : (s.clientMove m).RingsCounted := by
    cases m with
    | writeArg0 w => exact h.counted.congr rfl rfl rfl rfl rfl rfl rfl h.counted.ready
    | writeArg1 w => exact h.counted.congr rfl rfl rfl rfl rfl rfl rfl h.counted.ready
    | writeMsg i b => exact h.counted.msgWrite i b
    | writeCmd w => exact h.counted.congr rfl rfl rfl rfl rfl rfl rfl h.counted.ready
    | skipUnless code n =>
      simp only [State.clientMove]
      split
      · exact h.counted
      · exact h.counted.congr rfl rfl rfl rfl rfl rfl rfl h.counted.ready
  refine counted.kept_of_not_busy fun p => ?_
  rcases clientMove_seq s m with e | e <;> rw [e]
  · rw [hq]; nofun
  · nofun

/-- What an orderly move does to the rings: it is one of the four ring moves, a production with room, or it leaves the
rings and the pointers alone. -/
theorem envMove_rings_cases {s : State} {m : EnvMove} (ho : m.orderly s = true) :
    s.envMove m = s.consume ∨
      (s.rxring.length < s.cfg.cdepth.toNat ∧ ∃ w, s.envMove m = s.produce w) ∨
      s.envMove m = s.acceptReset ∨ s.envMove m = s.loopback ∨
      ((s.envMove m).txring = s.txring ∧ (s.envMove m).rxring = s.rxring ∧
        filled (s.envMove m).hcsr = filled s.hcsr ∧ filled (s.envMove m).ccsr = filled s.ccsr) := by
  cases m with
  | consume => exact .inl rfl
  | produce w => exact .inr (.inl ⟨of_decide_eq_true ho, w, rfl⟩)
  | acceptReset => exact .inr (.inr (.inl rfl))
  | loopback => exact .inr (.inr (.inr (.inl rfl)))
  | disturbPointers cw cr hr => cases ho
  | disturbRing ws => cases ho
  | loseTxWord i => cases ho
  | ccsrFlag f v => cases f <;> exact .inr (.inr (.inr (.inr ⟨rfl, rfl, rfl, rfl⟩)))
  | takeOut =>
    refine .inr (.inr (.inr (.inr ?_)))
    simp only [State.envMove, State.whenDoorbell]
    split <;> exact ⟨rfl, rfl, rfl, rfl⟩
  | writeInMsg i b =>
    refine .inr (.inr (.inr (.inr ?_)))
    simp only [State.envMove, State.whenDoorbell]
    split <;> [split; skip] <;> exact ⟨rfl, rfl, rfl, rfl⟩
  | postIn w =>
    refine .inr (.inr (.inr (.inr ?_)))
    simp only [State.envMove, State.whenDoorbell]
    split <;> [split; skip] <;> exact ⟨rfl, rfl, rfl, rfl⟩
  | forceIn w =>
    refine .inr (.inr (.inr (.inr ?_)))
    simp only [State.envMove, State.whenDoorbell]
    split <;> exact ⟨rfl, rfl, rfl, rfl⟩
  | _ => exact .inr (.inr (.inr (.inr ⟨rfl, rfl, rfl, rfl⟩)))

/-- A consumption only shortens `TXRING`. -/
theorem consume_rings (s : State) : s.consume.txring.length ≤ s.txring.length ∧ s.consume.rxring = s.rxring := by
  rcases s.consume_eq with e | e <;> rw [e]
  · exact ⟨Nat.le_refl _, rfl⟩
  · exact ⟨by rw [List.length_tail]; exact Nat.sub_le _ _, rfl⟩

/-- A loopback move is nothing, or a consumption and a production with room (20_memory.md R74). -/
theorem loopback_cases (s : State) :
    s.loopback = s ∨ (s.rxring.length < s.cfg.cdepth.toNat ∧ ∃ w, s.loopback = s.consume.produce w) := by
  unfold State.loopback
  split
  · exact .inl rfl
  · split
    · exact .inr ⟨‹_›, _, rfl⟩
    · exact .inl rfl

/-- No orderly move takes the room or the word that a position relies on: only an accepted reset empties `RXRING`, and
that needs a pending reset. -/
theorem envMove_ringsHold {s : State} {m : EnvMove} (ho : m.orderly s = true) : RingsHold s (s.envMove m) := by
  have rings : (s.envMove m).txring.length ≤ s.txring.length ∧
      (s.hcsr.rst = false → s.rxring ≠ [] → (s.envMove m).rxring ≠ []) := by
    obtain ⟨hctx, hcrx⟩ := consume_rings s
    rcases envMove_rings_cases ho with e | ⟨-, w, e⟩ | e | e | ⟨htx, hrx, -⟩
    · rw [e, hcrx]; exact ⟨hctx, fun _ => id⟩
    · rw [e]; exact ⟨Nat.le_refl _, fun _ _ => List.append_ne_nil_of_right_ne_nil _ (List.cons_ne_nil _ _)⟩
    · rw [e]
      unfold State.acceptReset
      split
      · rename_i hset
        exact ⟨Nat.zero_le _, fun hclear => by rw [hset] at hclear; cases hclear⟩
      · exact ⟨Nat.le_refl _, fun _ => id⟩
    · rw [e]
      rcases loopback_cases s with e | ⟨-, w, e⟩ <;> rw [e]
      · exact ⟨Nat.le_refl _, fun _ => id⟩
      · exact ⟨hctx, fun _ _ => List.append_ne_nil_of_right_ne_nil _ (List.cons_ne_nil _ _)⟩
    · rw [htx, hrx]; exact ⟨Nat.le_refl _, fun _ => id⟩
  exact ⟨State.envMove_cfg s m, State.envMove_lstate s m, State.envMove_hcsr_rst s m, State.envMove_hcsr_depth s m,
    rings.left, rings.right⟩

theorem envMove_ringsCounted {s : State} (h : s.RingsCounted) {m : EnvMove} (ho : m.orderly s = true) :
    (s.envMove m).RingsCounted := by
  rcases envMove_rings_cases ho with e | ⟨hroom, w, e⟩ | e | e | ⟨htx, hrx, hh, hc⟩
  · rw [e]; exact h.consume
  · rw [e]; exact h.produce hroom w
  · rw [e]; exact h.acceptReset
  · rw [e]
    rcases loopback_cases s with e | ⟨hroom, w, e⟩ <;> rw [e]
    · exact h
    · refine h.consume.produce ?_ w
      have hcfg : s.consume.cfg = s.cfg := State.envMove_cfg s .consume
      rw [(consume_rings s).right, hcfg]
      exact hroom
  · refine h.congr (State.envMove_cfg s m) htx hrx hh (State.envMove_hcsr_depth s m) hc (State.envMove_ccsr_depth s m) ?_
    rw [State.envMove_lstate, State.envMove_hcsr_rst]
    exact h.ready

theorem envMove_ringsKept {s : State} (h : s.RingsKept) {m : EnvMove} (ho : m.orderly s = true) :
    (s.envMove m).RingsKept where
  counted := envMove_ringsCounted h.counted ho
  pos := by
    intro p hp
    rw [State.envMove_seq] at hp
    exact Pos.ringsReady_of_hold (envMove_ringsHold ho) (h.pos p hp)

/-! ### Reset and executions -/

/-- At reset both rings are empty and all four pointers are 0 (10_state.md R45). -/
theorem created_ringsKept (c : Config) (d : ResetDraws) : (State.created c d).RingsKept :=
  State.RingsCounted.kept_of_not_busy
    ⟨by simp [State.created, filled], Nat.zero_le _, by simp [State.created, filled], Nat.zero_le _, rfl, nofun⟩
    fun _ => nofun

/-- Every step of an execution of a circular link keeps the rings counted while the environment is orderly. -/
theorem execution_ringsKept {s t : State} {τs : List EnvTurn} (he : Execution s τs t)
    (hk : s.cfg.kind = .circular) (h : s.RingsKept) (ho : ∀ τ ∈ τs, τ.move.orderly τ.before = true) :
    t.RingsKept := by
  induction he with
  | done s => exact h
  | turn m _ ih =>
    have hm : m.orderly _ = true := ho _ (List.mem_cons_self ..)
    refine ih ?_ (envMove_ringsKept h hm) fun τ hτ => ho τ (List.mem_cons_of_mem _ hτ)
    rw [State.envMove_cfg, hk]
  | engine hp ha _ ih =>
    refine ih ?_ (engineAct_ringsKept h.counted (h.pos _ hp) ha) ho
    rw [(engineAct_frame rfl ha).cfg, hk]
  | start _ _ _ ih =>
    refine ih ?_ (beginCommand_ringsKept h.counted hk _) ho
    rw [beginCommand_cfg, hk]
  | illegal _ _ _ ih => exact ih hk (h.counted.kept_ret _) ho
  | client m hq _ ih =>
    refine ih ?_ (clientMove_ringsKept h hq m) ho
    rw [clientMove_cfg, hk]

/-- Settles O10: the six clauses, one for each way a state comes about. -/
theorem ringsStayCounted : Obligations.RingsStayCounted :=
  ⟨created_ringsKept,
    fun _ _ p h hq ha => engineAct_ringsKept h.counted (h.pos p hq) ha,
    fun _ i h hk => beginCommand_ringsKept h hk i,
    fun _ m h hq => clientMove_ringsKept h hq m,
    fun _ _ h ho => envMove_ringsKept h ho,
    fun _ _ _ he hk h ho => execution_ringsKept he hk h ho⟩

end Sys2Proof.Machine
end

section
/-! The capacity of a RECV (10_state.md R41, 20_memory.md R58): its context carries `ARG0` unchanged, and it stands at a
byte's write only with fewer bytes written than that. -/

namespace Sys2Proof.Machine

/-- A buffer in canonical form that reads as `old` at and above `max`. -/
structure Memory.SameFrom (max : Nat) (old new : Memory) : Prop where
  wf : new.wf = true
  reads : ∀ k, max ≤ k → memRead new k = memRead old k

/-- A write below the bound is not seen at or above it. -/
theorem Memory.SameFrom.write {max i : Nat} {old new : Memory} (h : Memory.SameFrom max old new) (hi : i < max)
    (b : Byte) : Memory.SameFrom max old (memWrite new i b) where
  wf := memWrite_wf h.wf i b
  reads := by
    intro k hk
    rw [memRead_memWrite h.wf, if_neg (Nat.ne_of_gt (Nat.lt_of_lt_of_le hi hk)), h.reads k hk]

/-- A window read that answers a state has gone on with the byte read. -/
theorem eq_of_inRead_next {s t : State} {i : Nat} {k : Byte → State} (h : s.inRead i k = .next t) :
    t = k (memRead s.inMsg i) := by
  rcases s.inRead_cases i k with ⟨-, e⟩ | ⟨-, e⟩
  · exact (Host.Outcome.next.inj (e.symm.trans h)).symm
  · cases e.symm.trans h

/-- A wait of a RECV whose capacity is `max`. -/
def Wait.inCapacity (max : Nat) : Wait → Prop
  | .recvHeader c => c.max = max
  | .recvWord c _ => c.max = max
  | .dbEvent c => c.max = max
  | _ => False

/-- A position of a RECV whose capacity is `max`; on the way to a write of byte `n`, that byte is below it. -/
def Pos.inCapacity (max : Nat) : Pos → Prop
  | .pollStart w => w.inCapacity max
  | .pollCond w _ => w.inCapacity max
  | .pollNow w _ => w.inCapacity max
  | .recvPopHeader c => c.max = max
  | .recvPopWord c _ => c.max = max
  | .recvByte c _ _ _ => c.max = max ∧ c.n < c.max
  | .recvCheck c _ => c.max = max
  | .dbInHeader c _ _ _ => c.max = max
  | .dbInRead c _ _ => c.max = max ∧ c.n < c.max
  | .dbInWrite c _ _ _ => c.max = max ∧ c.n < c.max
  | .dbInClear c _ => c.max = max
  | _ => False

/-- A state of a run of RECV, with what `MSGBUF` held when it started. -/
structure State.InCapacity (max : Nat) (old : Memory) (s : State) : Prop where
  kept : Memory.SameFrom max old s.msgbuf
  pos : ∀ p, s.seq = .busy p → p.inCapacity max

section
variable {max : Nat} {old : Memory} {s : State} (h : Memory.SameFrom max old s.msgbuf)
include h

/-! ### The engine goes on, or the RECV ends -/

theorem inCapacity_goto {p : Pos} (hp : p.inCapacity max) : (s.goto p).InCapacity max old :=
  ⟨h, fun _ hq => Seq.busy.inj hq ▸ hp⟩

theorem inCapacity_poll {w : Wait} (hw : w.inCapacity max) : (s.poll w).InCapacity max old := inCapacity_goto h hw

theorem inCapacity_ret (c : ResultCode) : (s.ret c).InCapacity max old := ⟨h, fun _ => nofun⟩

theorem inCapacity_recvFail (c : ResultCode) (moved : Bool) : (s.recvFail c moved).InCapacity max old :=
  ⟨h, fun _ => nofun⟩

theorem inCapacity_recvDone (c : RecvCtx) (hw : Word) : (s.recvDone c hw).InCapacity max old := ⟨h, fun _ => nofun⟩

/-! ### The shared continuations -/

theorem inCapacity_recvNextWord {c : RecvCtx} (hc : c.max = max) (p : RxPacket) :
    (recvNextWord s c p).InCapacity max old := by
  rcases recvNextWord_cases s c p with ⟨-, e⟩ | e <;> rw [e]
  · exact inCapacity_poll h hc
  · exact inCapacity_goto h hc

theorem inCapacity_recvNextByte {c : RecvCtx} (hc : c.max = max) (p : RxPacket) (w : Word) (b : Nat) :
    (recvNextByte s c p w b).InCapacity max old := by
  rcases recvNextByte_cases s c p w b with ⟨hn, e⟩ | ⟨small, e⟩ <;> rw [e]
  · exact inCapacity_goto h ⟨hc, hn⟩
  · exact inCapacity_recvNextWord h (c := { c with small := small }) hc _

theorem inCapacity_recvCheck {c : RecvCtx} (hc : c.max = max) (hw : Word) :
    (recvCheck s c hw).InCapacity max old := by
  rcases recvCheck_cases s c hw with e | e | e <;> rw [e]
  · exact inCapacity_recvDone h _ _
  · exact inCapacity_poll h hc
  · exact inCapacity_recvFail h _ _

theorem inCapacity_dbInNextByte {c : RecvCtx} (hc : c.max = max) (hw : Word) (k : Nat) :
    (dbInNextByte s c hw k).InCapacity max old := by
  rcases dbInNextByte_cases s c hw k with ⟨-, hn, e⟩ | ⟨small, e⟩ <;> rw [e]
  · exact inCapacity_goto h ⟨hc, hn⟩
  · exact inCapacity_goto h hc

theorem inCapacity_dbInCheck {c : RecvCtx} (hc : c.max = max) (d : Doorbell) (hw : Word) :
    (dbInCheck s c d hw).InCapacity max old := by
  rcases dbInCheck_cases s c d hw with ⟨-, e⟩ | e <;> rw [e]
  · exact inCapacity_dbInNextByte h hc hw 0
  · exact inCapacity_recvFail h _ _

theorem inCapacity_dbInClear {c : RecvCtx} (hc : c.max = max) (hw : Word) :
    (dbInClear s c hw).InCapacity max old := by
  obtain ⟨c', hmax, e | e⟩ := dbInClear_cases s c hw <;> rw [e]
  · exact inCapacity_recvDone (s := s.clearDbIn) h _ _
  · exact inCapacity_poll (s := s.clearDbIn) h (hmax.trans hc)

theorem inCapacity_waitEnd {w : Wait} (hw : w.inCapacity max) (r : PollEnd) :
    (waitEnd s r w).InCapacity max old := by
  cases w with
  | recvHeader c => cases r with
    | ok => exact inCapacity_goto h hw
    | err e =>
      show (recvHeaderEnd s c (.err e)).InCapacity max old
      rcases recvHeaderEnd_err_cases s c e with e | e <;> rw [e]
      · exact inCapacity_ret h _
      · exact inCapacity_recvFail h _ _
  | recvWord c p => cases r with
    | ok => exact inCapacity_goto h hw
    | err e => exact inCapacity_recvFail h _ _
  | dbEvent c => cases r with
    | ok =>
      show (dbEventEnd s c .ok).InCapacity max old
      rcases dbEventEnd_ok_cases s c with e | e <;> rw [e]
      · exact inCapacity_goto h hw
      · exact inCapacity_recvFail h _ _
    | err e =>
      show (dbEventEnd s c (.err e)).InCapacity max old
      rcases dbEventEnd_err_cases s c e with e | e <;> rw [e]
      · exact inCapacity_ret h _
      · exact inCapacity_recvFail h _ _
  | _ => exact hw.elim

/-! ### Reads of `IN_MSG` -/

theorem inCapacity_dbInHeader {t : State} {c : RecvCtx} (hc : c.max = max) {d : Doorbell} {k : Nat} {acc : Word}
    (ha : dbInHeader s c d k acc = .next t) : t.InCapacity max old := by
  unfold dbInHeader at ha
  rw [eq_of_inRead_next ha]
  split
  · exact inCapacity_goto h hc
  · exact inCapacity_dbInCheck h hc _ _

theorem inCapacity_dbInRead {t : State} {c : RecvCtx} (hc : c.max = max ∧ c.n < c.max) {hw : Word} {k : Nat}
    (ha : dbInRead s c hw k = .next t) : t.InCapacity max old := by
  unfold dbInRead at ha
  rw [eq_of_inRead_next ha]
  exact inCapacity_goto h hc

/-! ### One atomic step, and the run -/

/-- The two positions that write `MSGBUF` write byte `n`, which is below the capacity. -/
theorem engineAct_inCapacity {t : State} {p : Pos} (hp : p.inCapacity max) (ha : engineAct s p = .next t) :
    t.InCapacity max old := by
  cases p with
  | pollStart w => cases ha; exact inCapacity_goto h hp
  | pollCond w x =>
    cases ha
    rcases pollCond_cases s w x with ⟨-, e⟩ | ⟨-, e⟩ | ⟨c, -, e⟩ <;> rw [e]
    · exact inCapacity_goto h hp
    · exact inCapacity_waitEnd h hp _
    · exact inCapacity_waitEnd h hp _
  | pollNow w x =>
    cases ha
    rcases pollNow_cases s w x with ⟨-, e⟩ | ⟨-, e⟩ <;> rw [e]
    · exact inCapacity_waitEnd h hp _
    · exact inCapacity_goto h hp
  | recvPopHeader c =>
    cases ha
    exact inCapacity_recvNextWord (s := s.rxPop) (c := { c with moved := true }) h hp _
  | recvPopWord c x =>
    cases ha
    exact inCapacity_recvNextByte (s := s.rxPop) (c := { c with moved := true }) h hp _ _ _
  | recvByte c x w b =>
    cases ha
    obtain ⟨hc, hn⟩ := hp
    exact inCapacity_recvNextByte (s := s.msgWrite c.n _) (c := { c with n := c.n + 1 }) (h.write (hc ▸ hn) _) hc _ _ _
  | recvCheck c hw => cases ha; exact inCapacity_recvCheck h hp hw
  | dbInHeader c d k acc => exact inCapacity_dbInHeader h hp ha
  | dbInRead c hw k => exact inCapacity_dbInRead h hp ha
  | dbInWrite c hw k v =>
    cases ha
    obtain ⟨hc, hn⟩ := hp
    exact inCapacity_dbInNextByte (s := s.msgWrite c.n v) (c := { c with n := c.n + 1 }) (h.write (hc ▸ hn) v) hc _ _
  | dbInClear c hw => cases ha; exact inCapacity_dbInClear h hp hw
  | _ => exact hp.elim

end

/-- A RECV reads its capacity from `ARG0` as it starts (log 24). -/
theorem beginRecv_inCapacity {s : State} (hwf : s.msgbuf.wf = true) (blk : Bool) :
    (beginRecv blk s).InCapacity s.arg0.toNat s.msgbuf := by
  have same : Memory.SameFrom s.arg0.toNat s.msgbuf s.msgbuf := ⟨hwf, fun _ _ => rfl⟩
  unfold beginRecv
  split
  · split
    · split <;> exact inCapacity_poll same rfl
    · exact inCapacity_ret same _
  · exact inCapacity_ret same _

/-- Settles O54, by induction along the run: the environment touches neither `MSGBUF` nor the position. The premise of
R246 is not needed. -/
theorem recvStaysInCapacity : Obligations.RecvStaysInCapacity := by
  intro blk s t hwf _ hrun
  have hend : t.InCapacity s.arg0.toNat s.msgbuf := by
    refine engineRun_induct ?_ (beginRecv_inCapacity hwf blk) hrun
    intro u p u' hq hu ha
    have hkept : Memory.SameFrom s.arg0.toNat s.msgbuf u.advance.msgbuf := by
      rw [State.advance_msgbuf]; exact hu.kept
    exact engineAct_inCapacity hkept (hu.pos p hq) ha
  exact hend.kept.reads

end Sys2Proof.Machine
end

section
/-! The two agents' accesses (20_memory.md R56 to R72): the environment's moves and what they keep, the rings and the
flag write. -/

namespace Sys2Proof.Machine

/-! ### The environment -/

/-- The doorbell unit as the coprocessor moves it: the two doorbell registers and the inbound window. -/
structure BellKept (s t : State) : Prop where
  dbOut : t.dbOut = s.dbOut
  dbIn : t.dbIn = s.dbIn
  inMsg : t.inMsg = s.inMsg

theorem BellKept.trans {s t u : State} (h : BellKept s t) (k : BellKept t u) : BellKept s u :=
  ⟨k.dbOut.trans h.dbOut, k.dbIn.trans h.dbIn, k.inMsg.trans h.inMsg⟩

theorem consume_bellKept (s : State) : BellKept s s.consume := by
  rcases s.consume_eq with e | e <;> rw [e] <;> exact ⟨rfl, rfl, rfl⟩

/-- On a circular link the coprocessor makes no move (log 19), and every other move leaves the doorbell unit alone. -/
theorem envMove_bellKept {s : State} (hk : s.cfg.kind = .circular) (m : EnvMove) : BellKept s (s.envMove m) := by
  have refused (t : State) : BellKept s (s.whenDoorbell t) := by
    rw [State.whenDoorbell, hk, if_neg nofun]
    exact ⟨rfl, rfl, rfl⟩
  cases m with
  | takeOut => exact refused _
  | writeInMsg i b => exact refused _
  | postIn w => exact refused _
  | forceIn w => exact refused _
  | consume => exact consume_bellKept s
  | acceptReset => simp only [State.envMove, State.acceptReset]; split <;> exact ⟨rfl, rfl, rfl⟩
  | disturbRing ws => simp only [State.envMove]; split <;> exact ⟨rfl, rfl, rfl⟩
  | loseTxWord i => simp only [State.envMove]; split <;> exact ⟨rfl, rfl, rfl⟩
  | loopback =>
    show BellKept s s.loopback
    rcases loopback_cases s with e | ⟨-, w, e⟩ <;> rw [e]
    · exact ⟨rfl, rfl, rfl⟩
    · exact (consume_bellKept s).trans ⟨rfl, rfl, rfl⟩
  | _ => exact ⟨rfl, rfl, rfl⟩

theorem envMoves_bellKept {s : State} (hk : s.cfg.kind = .circular) (ms : List EnvMove) :
    BellKept s (s.envMoves ms) := by
  induction ms generalizing s with
  | nil => exact ⟨rfl, rfl, rfl⟩
  | cons m ms ih =>
    have hk' : (s.envMove m).cfg.kind = .circular := by rw [State.envMove_cfg, hk]
    exact (envMove_bellKept hk m).trans (ih hk')

theorem advance_bellKept {s : State} (hk : s.cfg.kind = .circular) : BellKept s s.advance := by
  unfold State.advance
  split
  · exact ⟨rfl, rfl, rfl⟩
  · rename_i ms later _
    have kept := envMoves_bellKept (s := { s with env := later }) hk ms
    exact ⟨kept.dbOut, kept.dbIn, kept.inMsg⟩

/-- Settles O12: the clauses for every link are the laws of `State.advance`; the last is that of a circular link. -/
theorem environmentKeepsItsHandsOff : Obligations.EnvironmentKeepsItsHandsOff := by
  intro s
  refine ⟨s.advance_cfg, s.advance_lstate, s.advance_resync, s.advance_comm, s.advance_refclk, s.advance_outMsg,
    s.advance_trace, s.advance_cmd, s.advance_arg0, s.advance_arg1, s.advance_result, s.advance_res0, s.advance_res1,
    s.advance_res2, s.advance_msgbuf, s.advance_seq, s.advance_client, s.advance_draws, s.advance_env, fun hk => ?_⟩
  obtain ⟨hout, hin, hmsg⟩ := advance_bellKept hk
  exact ⟨hout, hin, hmsg⟩

theorem consume_of_cons {s : State} {w : Word} {rest : List Word} (h : s.txring = w :: rest) :
    s.consume = { s with txring := rest, hcsr := { s.hcsr with rp := s.hcsr.rp + 1 } } := by
  unfold State.consume
  rw [h]

theorem acceptReset_of_rst {s : State} (h : s.hcsr.rst = true) :
    s.acceptReset =
      { s with txring := [], rxring := [], hcsr := { s.hcsr with rdy := false, wp := 0, rp := 0 },
               ccsr := { s.ccsr with wp := 0, rp := 0 } } := by
  unfold State.acceptReset
  rw [if_pos h]

/-- Settles O13: a production and a tick are unconditional, a consumption needs a word, an acceptance a pending reset. -/
theorem environmentMoves : Obligations.EnvironmentMoves :=
  ⟨fun _ _ _ h => consume_of_cons h, fun _ _ => rfl, fun _ h => acceptReset_of_rst h, fun _ => rfl⟩

/-! ### Rings and flags -/

theorem rxFront_of_cons {s : State} {w : Word} {rest : List Word} (h : s.rxring = w :: rest) : s.rxFront = w := by
  unfold State.rxFront
  rw [h]

theorem rxPop_of_cons {s : State} {w : Word} {rest : List Word} (h : s.rxring = w :: rest) :
    s.rxPop =
      { s with rxring := rest, ccsr := { s.ccsr with rp := s.ccsr.rp + 1 }, trace := s.trace ++ [.pop w] } := by
  simp only [State.rxPop, State.emit, rxFront_of_cons h, h, List.tail_cons, List.isEmpty_cons, Bool.false_eq_true,
    if_false]

theorem rxFront_of_nil {s : State} (h : s.rxring = []) : s.rxFront = Config.emptyPopWord s.draws := by
  unfold State.rxFront
  rw [h]

theorem rxPop_of_nil {s : State} (h : s.rxring = []) :
    s.rxPop =
      { s with ccsr := { s.ccsr with rp := s.ccsr.rp + 1 }, trace := s.trace ++ [.pop s.rxFront],
               draws := s.draws + 1 } := by
  simp only [State.rxPop, State.emit, h, List.tail_nil, List.isEmpty_nil, if_true]

/-- Settles O39: a push is unconditional (log 10); a pop is told apart by whether the ring holds a word (log 8). -/
theorem ringAccess : Obligations.RingAccess :=
  ⟨fun _ _ => rfl, fun _ _ _ h => ⟨rxFront_of_cons h, rxPop_of_cons h⟩, fun _ h => ⟨rxFront_of_nil h, rxPop_of_nil h⟩⟩

/-- Settles O40: the write updates the three named flags of the record and appends its event. -/
theorem flagWrite : Obligations.FlagWrite := by
  intro s rst rdy ig
  exact ⟨rfl, rfl, rfl, rfl, rfl, rfl, rfl, rfl⟩

end Sys2Proof.Machine
end

section
/-! The frame of a command (20_memory.md R61): its owner decides which events its accesses append and which registers
they reach, and the kind of the link decides which positions it passes. Both are kept along every run, so that what a
command leaves alone is read off at its end. -/

namespace Sys2Proof.Machine

/-! ### The events of a command -/

/-- The events that the accesses of a command of this owner append to `TRACE` (10_state.md R32). -/
def Owner.makes (o : Owner) : Event → Bool
  | .push _ => decide (o = .send)
  | .pop _ => decide (o = .recv)
  | .writeWin _ => decide (o = .link ∨ o = .send)
  | .writeReg .dbOut _ => decide (o = .link ∨ o = .send)
  | .writeReg _ _ => decide (o = .link ∨ o = .send ∨ o = .recv)

/-- A trace grown by events of this owner. -/
def Owner.Appends (o : Owner) (before after : List Event) : Prop :=
  ∃ es, after = before ++ es ∧ ∀ e ∈ es, o.makes e = true

theorem Owner.Appends.refl (o : Owner) (es : List Event) : o.Appends es es := ⟨[], by simp, nofun⟩

theorem Owner.Appends.snoc {o : Owner} {before after : List Event} (h : o.Appends before after) {e : Event}
    (he : o.makes e = true) : o.Appends before (after ++ [e]) := by
  obtain ⟨es, rfl, hes⟩ := h
  refine ⟨es ++ [e], List.append_assoc .., fun x hx => ?_⟩
  rcases List.mem_append.mp hx with hx | hx
  · exact hes x hx
  · rw [List.mem_singleton.mp hx]; exact he

/-- A reading of the trace that passes over every event of this owner does not see the owner's commands. -/
theorem Owner.Appends.filterMap_eq {α : Type} {o : Owner} {before after : List Event} (h : o.Appends before after)
    {f : Event → Option α} (hf : ∀ e, o.makes e = true → f e = none) : after.filterMap f = before.filterMap f := by
  obtain ⟨es, rfl, hes⟩ := h
  rw [List.filterMap_append, List.filterMap_eq_nil_iff.mpr fun e he => hf e (hes e he), List.append_nil]

theorem Owner.Appends.pushes_eq {o : Owner} {before after : List Event} (h : o.Appends before after)
    (ho : o ≠ .send) : pushes after = pushes before :=
  h.filterMap_eq fun e he => by
    cases e with
    | push w => exact absurd (of_decide_eq_true he) ho
    | _ => rfl

theorem Owner.Appends.pops_eq {o : Owner} {before after : List Event} (h : o.Appends before after)
    (ho : o ≠ .recv) : pops after = pops before :=
  h.filterMap_eq fun e he => by
    cases e with
    | pop w => exact absurd (of_decide_eq_true he) ho
    | _ => rfl

theorem Owner.Appends.rings_eq {o : Owner} {before after : List Event} (h : o.Appends before after)
    (ho : ¬ (o = .link ∨ o = .send)) : rings after = rings before :=
  h.filterMap_eq fun e he => by
    cases e with
    | writeReg r w => cases r with
      | dbOut => exact absurd (of_decide_eq_true he) ho
      | _ => rfl
    | _ => rfl

theorem Owner.Appends.windows_eq {o : Owner} {before after : List Event} (h : o.Appends before after)
    (ho : ¬ (o = .link ∨ o = .send)) : windows after = windows before :=
  h.filterMap_eq fun e he => by
    cases e with
    | writeWin bs => exact absurd (of_decide_eq_true he) ho
    | _ => rfl

/-! ### The positions of each kind of link -/

/-- The kind of link that a wait is for. -/
def Wait.kind : Wait → TransportKind
  | .initReady => .circular
  | .sendRoom _ => .circular
  | .recvHeader _ => .circular
  | .recvWord _ _ => .circular
  | .resetAccepted => .circular
  | .resetReady => .circular
  | .hsIdle _ => .doorbell
  | .hsAck _ => .doorbell
  | .dbIdle _ => .doorbell
  | .dbDone _ => .doorbell
  | .dbAck _ => .doorbell
  | .dbEvent _ => .doorbell

/-- A position that the engine of a link of kind `k` can stand at. -/
def Pos.onKind (k : TransportKind) : Pos → Prop
  | .tstartNow _ => True
  | .texpiredNow _ => True
  | .queryA _ => True
  | .queryB _ _ => True
  | .gateA _ => True
  | .gateB _ _ => True
  | .gateGroup _ _ => True
  | .gateCommand _ _ _ => True
  | .pollStart w => k = w.kind
  | .pollCond w _ => k = w.kind
  | .pollNow w _ => k = w.kind
  | .initWrite => k = .circular
  | .sendHeader _ => k = .circular
  | .sendByte _ _ _ _ => k = .circular
  | .sendWord _ _ _ => k = .circular
  | .sendNotify _ => k = .circular
  | .sendCheck _ => k = .circular
  | .recvPopHeader _ => k = .circular
  | .recvPopWord _ _ => k = .circular
  | .recvByte _ _ _ _ => k = .circular
  | .recvCheck _ _ => k = .circular
  | .lresetBegin => k = .circular
  | .lresetEnd => k = .circular
  | _ => k = .doorbell

/-! ### What a command leaves alone of the link -/

/-- What a command of owner `o` on a link of kind `k` has left alone, and what it has added to the trace, from `s` to
`u`. -/
structure LinkFrame (k : TransportKind) (o : Owner) (s u : State) : Prop where
  hdepth : u.hcsr.depth = s.hcsr.depth
  cdepth : u.ccsr.depth = s.ccsr.depth
  rst : o ≠ .link → u.hcsr.rst = s.hcsr.rst
  bell : k = .circular →
    u.outMsg = s.outMsg ∧ u.comm = s.comm ∧ u.refclk = s.refclk ∧ u.dbOut = s.dbOut ∧ u.dbIn = s.dbIn
  trace : o.Appends s.trace u.trace

/-- The same of a state in which the engine stands at a position of the link's kind, or the command has ended. -/
structure LinkStep (k : TransportKind) (o : Owner) (s u : State) : Prop extends LinkFrame k o s u where
  pos : ∀ p, u.seq = .busy p → p.onKind k

theorem LinkFrame.refl (k : TransportKind) (o : Owner) (s : State) : LinkFrame k o s s :=
  ⟨rfl, rfl, fun _ => rfl, fun _ => ⟨rfl, rfl, rfl, rfl, rfl⟩, .refl o s.trace⟩

section
variable {k : TransportKind} {o : Owner} {s u : State}

section
variable (h : LinkFrame k o s u)
include h

/-! ### The engine goes on, or the command ends -/

theorem LinkFrame.goto {p : Pos} (hp : p.onKind k) : LinkStep k o s (u.goto p) :=
  { h with pos := fun _ hq => Seq.busy.inj hq ▸ hp }

theorem LinkFrame.poll {w : Wait} (hw : k = w.kind) : LinkStep k o s (u.poll w) := h.goto hw

theorem LinkFrame.ret (c : ResultCode) : LinkStep k o s (u.ret c) := { h with pos := fun _ => nofun }

theorem LinkFrame.fail (c : ResultCode) (moved : Bool) : LinkStep k o s (u.fail c moved) :=
  { h with pos := fun _ => nofun }

theorem LinkFrame.recvFail (c : ResultCode) (moved : Bool) : LinkStep k o s (u.recvFail c moved) :=
  { h with pos := fun _ => nofun }

theorem LinkFrame.recvDone (c : RecvCtx) (hw : Word) : LinkStep k o s (u.recvDone c hw) :=
  { h with pos := fun _ => nofun }

theorem LinkFrame.linkUp : LinkStep k o s u.linkUp := { h with pos := fun _ => nofun }

theorem LinkFrame.linkResynced : LinkStep k o s u.linkResynced := { h with pos := fun _ => nofun }

/-! ### The environment's moves and the accesses -/

theorem LinkFrame.advance (hk : u.cfg.kind = k) : LinkFrame k o s u.advance where
  hdepth := by rw [State.advance_hcsr_depth, h.hdepth]
  cdepth := by rw [State.advance_ccsr_depth, h.cdepth]
  rst ho := by rw [State.advance_hcsr_rst, h.rst ho]
  bell hc := by
    have kept := advance_bellKept (hk.trans hc)
    rw [State.advance_outMsg, State.advance_comm, State.advance_refclk, kept.dbOut, kept.dbIn]
    exact h.bell hc
  trace := by rw [State.advance_trace]; exact h.trace

theorem LinkFrame.emit {e : Event} (he : o.makes e = true) : LinkFrame k o s (u.emit e) :=
  { h with trace := h.trace.snoc he }

theorem LinkFrame.emitWindow (ho : o = .link ∨ o = .send) (n : Nat) : LinkFrame k o s (u.emitWindow n) :=
  h.emit (decide_eq_true ho)

/-- Only a command of the link names `RST` in a write of `HCSR`. -/
theorem LinkFrame.writeHcsr {rst rdy ig : Option Bool} (ho : o = .link ∨ o = .send ∧ rst = none) :
    LinkFrame k o s (u.writeHcsr rst rdy ig) := by
  rcases ho with rfl | ⟨rfl, rfl⟩
  · exact { h with rst := fun ho => absurd rfl ho, trace := h.trace.snoc rfl }
  · exact { h with trace := h.trace.snoc rfl }

theorem LinkFrame.results (r0 r1 : Word) : LinkFrame k o s { u with res0 := r0, res1 := r1 } := { h with }

theorem LinkFrame.msgWrite (i : Nat) (b : Byte) : LinkFrame k o s (u.msgWrite i b) := { h with }

end

theorem LinkFrame.txPush (h : LinkFrame k .send s u) (w : Word) : LinkFrame k .send s (u.txPush w) :=
  { h with trace := h.trace.snoc rfl }

theorem LinkFrame.rxPop (h : LinkFrame k .recv s u) : LinkFrame k .recv s u.rxPop :=
  { h with trace := h.trace.snoc rfl }

theorem LinkFrame.outWindowWrite (h : LinkFrame .doorbell o s u) (i : Nat) (b : Byte) :
    LinkFrame .doorbell o s { u with outMsg := memWrite u.outMsg i b } :=
  { h with bell := nofun }

theorem LinkFrame.writeDbOut (h : LinkFrame .doorbell o s u) (ho : o = .link ∨ o = .send) (d : Doorbell) :
    LinkFrame .doorbell o s (u.writeDbOut d) :=
  { h with bell := nofun, trace := h.trace.snoc (decide_eq_true ho) }

theorem LinkFrame.clearDbIn (h : LinkFrame .doorbell o s u) (ho : o = .link ∨ o = .send ∨ o = .recv) :
    LinkFrame .doorbell o s u.clearDbIn :=
  { h with bell := nofun, trace := h.trace.snoc (decide_eq_true ho) }

theorem LinkFrame.setComm (h : LinkFrame .doorbell .link s u) (a b c : Bool) :
    LinkFrame .doorbell .link s (u.setComm a b c) :=
  { h with bell := nofun, trace := h.trace.snoc rfl }

theorem LinkFrame.writeRefclk (h : LinkFrame .doorbell .link s u) (w : Word) :
    LinkFrame .doorbell .link s (u.writeRefclk w) :=
  { h with bell := nofun, trace := h.trace.snoc rfl }

/-! ### The shared continuations of a circular link -/

section
variable (h : LinkFrame .circular o s u)
include h

theorem LinkFrame.txSendBegin (dst src : Byte) (len : Nat) :
    LinkStep .circular o s (txSendBegin u dst src len) := by
  rcases txSendBegin_cases u dst src len with e | ⟨c, e⟩ <;> rw [e]
  · exact h.ret _
  · exact h.poll rfl

theorem LinkFrame.sendNextWord (c : SendCtx) (i : Nat) : LinkStep .circular o s (sendNextWord u c i) := by
  rcases sendNextWord_cases u c i with ⟨-, e⟩ | e <;> rw [e] <;> exact h.goto rfl

theorem LinkFrame.sendByte (c : SendCtx) (i b : Nat) (acc : Word) :
    LinkStep .circular o s (sendByte u c i b acc) := by
  obtain ⟨acc', e | e⟩ := sendByte_cases u c i b acc <;> rw [e] <;> exact h.goto rfl

theorem LinkFrame.sendCheck (c : SendCtx) : LinkStep .circular o s (sendCheck u c) := by
  unfold Machine.sendCheck
  split
  · rcases txSendNext_cases u c with e | ⟨p, ps, -, e⟩ <;> rw [e]
    · exact h.ret _
    · exact h.poll rfl
  · exact h.fail _ _

theorem LinkFrame.recvNextWord (c : RecvCtx) (p : RxPacket) : LinkStep .circular o s (recvNextWord u c p) := by
  rcases recvNextWord_cases u c p with ⟨-, e⟩ | e <;> rw [e]
  · exact h.poll rfl
  · exact h.goto rfl

theorem LinkFrame.recvNextByte (c : RecvCtx) (p : RxPacket) (w : Word) (b : Nat) :
    LinkStep .circular o s (recvNextByte u c p w b) := by
  rcases recvNextByte_cases u c p w b with ⟨-, e⟩ | ⟨small, e⟩ <;> rw [e]
  · exact h.goto rfl
  · exact h.recvNextWord _ _

theorem LinkFrame.recvCheck (c : RecvCtx) (hw : Word) : LinkStep .circular o s (recvCheck u c hw) := by
  rcases recvCheck_cases u c hw with e | e | e <;> rw [e]
  · exact h.recvDone _ _
  · exact h.poll rfl
  · exact h.recvFail _ _

end

/-! ### The shared continuations of a doorbell link -/

section
variable (h : LinkFrame .doorbell o s u)
include h

theorem LinkFrame.dbSendBegin (dst src : Byte) (len : Nat) :
    LinkStep .doorbell o s (dbSendBegin u dst src len) := by
  rcases dbSendBegin_cases u dst src len with e | ⟨c, -, e⟩ <;> rw [e]
  · exact h.ret _
  · exact h.poll rfl

theorem LinkFrame.dbSendNext (c : SendCtx) : LinkStep .doorbell o s (dbSendNext u c) := by
  rcases dbSendNext_cases u c with e | ⟨p, ps, -, e⟩ <;> rw [e]
  · exact h.ret _
  · exact h.poll rfl

theorem LinkFrame.dbNextByte (ho : o = .link ∨ o = .send) (c : SendCtx) (i : Nat) :
    LinkStep .doorbell o s (dbNextByte u c i) := by
  rcases dbNextByte_cases u c i with ⟨-, e⟩ | e <;> rw [e]
  · exact h.goto rfl
  · exact (h.emitWindow ho _).goto rfl

theorem LinkFrame.dbInNextByte (c : RecvCtx) (hw : Word) (i : Nat) :
    LinkStep .doorbell o s (dbInNextByte u c hw i) := by
  rcases dbInNextByte_cases u c hw i with ⟨-, -, e⟩ | ⟨small, e⟩ <;> rw [e] <;> exact h.goto rfl

theorem LinkFrame.dbInCheck (c : RecvCtx) (d : Doorbell) (hw : Word) :
    LinkStep .doorbell o s (dbInCheck u c d hw) := by
  rcases dbInCheck_cases u c d hw with ⟨-, e⟩ | e <;> rw [e]
  · exact h.dbInNextByte c hw 0
  · exact h.recvFail _ _

theorem LinkFrame.dbInClear (ho : o = .link ∨ o = .send ∨ o = .recv) (c : RecvCtx) (hw : Word) :
    LinkStep .doorbell o s (dbInClear u c hw) := by
  obtain ⟨c', -, e | e⟩ := dbInClear_cases u c hw <;> rw [e]
  · exact (h.clearDbIn ho).recvDone _ _
  · exact (h.clearDbIn ho).poll rfl

theorem LinkFrame.hsRound (ho : o = .link ∨ o = .send) (x : HsCtx) : LinkStep .doorbell o s (hsRound u x) := by
  rcases hsRound_cases u x with e | ⟨-, e⟩ <;> rw [e]
  · exact (h.emitWindow ho 0).goto rfl
  · exact h.goto rfl

theorem LinkFrame.hsAwait (ho : o = .link ∨ o = .send) (x : HsCtx) : LinkStep .doorbell o s (hsAwait u x) := by
  rcases hsAwait_cases u x with ⟨y, e⟩ | e | e | e <;> rw [e]
  · exact h.hsRound ho y
  · exact h.linkResynced
  · exact h.linkUp
  · exact h.poll rfl

end

/-! ### Waits and the gate -/

section
variable (h : LinkFrame k o s u)
include h

theorem LinkFrame.gateEnd (hk : u.cfg.kind = k) (g : GateCtx) (p : Path) (cat : Nat) :
    LinkStep k o s (gateEnd u g p cat) := by
  rcases gateEnd_cases u g p cat with ⟨c, e⟩ | ⟨hc, e⟩ | ⟨hd, e⟩
  · rw [e]; exact h.ret _
  · obtain rfl := hk.symm.trans hc
    rw [e]; exact h.txSendBegin _ _ _
  · obtain rfl := hk.symm.trans hd
    rw [e]; exact h.dbSendBegin _ _ _

theorem LinkFrame.waitEnd_err {w : Wait} (c : ResultCode) : LinkStep k o s (waitEnd u (.err c) w) := by
  cases w with
  | sendRoom x => exact h.fail _ _
  | recvHeader x =>
    show LinkStep k o s (recvHeaderEnd u x (.err c))
    rcases recvHeaderEnd_err_cases u x c with e | e <;> rw [e]
    · exact h.ret _
    · exact h.recvFail _ _
  | recvWord x p => exact h.recvFail _ _
  | dbIdle x => exact h.fail _ _
  | dbDone x => exact h.fail _ _
  | dbAck x => exact h.fail _ _
  | dbEvent x =>
    show LinkStep k o s (dbEventEnd u x (.err c))
    rcases dbEventEnd_err_cases u x c with e | e <;> rw [e]
    · exact h.ret _
    · exact h.recvFail _ _
  | _ => exact h.ret _

theorem LinkFrame.waitEnd_ok {w : Wait} (hw : k = w.kind) (ho : w.owner = o) :
    LinkStep k o s (waitEnd u .ok w) := by
  cases w with
  | initReady => exact h.goto hw
  | sendRoom x => exact h.goto hw
  | recvHeader x => exact h.goto hw
  | recvWord x p => exact h.goto hw
  | resetAccepted => exact h.poll hw
  | resetReady => exact h.goto hw
  | hsIdle x => obtain rfl := hw; exact h.hsAwait (.inl ho.symm) _
  | hsAck x =>
    show LinkStep k o s (hsAckEnd u x .ok)
    rcases hsAckEnd_ok_cases u x with e | e <;> rw [e]
    · exact h.goto hw
    · exact h.ret _
  | dbIdle x => exact h.goto hw
  | dbDone x => exact h.poll hw
  | dbAck x =>
    show LinkStep k o s (dbAckEnd u x .ok)
    rcases dbAckEnd_ok_cases u x with e | e <;> rw [e]
    · exact h.goto hw
    · exact h.fail _ _
  | dbEvent x =>
    show LinkStep k o s (dbEventEnd u x .ok)
    rcases dbEventEnd_ok_cases u x with e | e <;> rw [e]
    · exact h.goto hw
    · exact h.recvFail _ _

end
end

/-- A window write that answers a state has written the byte and gone on. -/
theorem eq_of_outWrite_next {s t : State} {i : Nat} {b : Byte} {k : State → State} (h : s.outWrite i b k = .next t) :
    t = k { s with outMsg := memWrite s.outMsg i b } := by
  rcases s.outWrite_cases i b k with ⟨-, e⟩ | ⟨-, e⟩
  · exact (Host.Outcome.next.inj (e.symm.trans h)).symm
  · cases e.symm.trans h

/-! ### One atomic step -/

/-- A step from a position of the link's kind makes an access of its owner and leads to such a position again. -/
theorem engineAct_linkStep {k : TransportKind} {o : Owner} {s u t : State} {p : Pos} (h : LinkFrame k o s u)
    (hk : u.cfg.kind = k) (hp : p.onKind k) (ho : p.owner = o) (ha : engineAct u p = .next t) :
    LinkStep k o s t := by
  cases p with
  | tstartNow us => cases ha; exact (h.results _ _).ret _
  | texpiredNow x => cases ha; exact (h.results _ u.res1).ret _
  | queryA q => cases ha; exact h.goto trivial
  | queryB q a =>
    cases ha
    cases q with
    | path => exact (h.results _ u.res1).ret _
    | hide => exact (h.results _ _).ret _
    | allow => exact (h.results _ _).ret _
  | gateA g => cases ha; exact h.goto trivial
  | gateB g a =>
    cases ha
    unfold gateB
    dsimp only
    split
    · exact h.goto trivial
    · exact h.gateEnd hk _ _ _
  | gateGroup g x => cases ha; exact h.goto trivial
  | gateCommand g x group => cases ha; exact h.gateEnd hk _ _ _
  | pollStart w => cases ha; exact h.goto hp
  | pollCond w x =>
    cases ha
    rcases pollCond_cases u w x with ⟨-, e⟩ | ⟨-, e⟩ | ⟨c, -, e⟩ <;> rw [e]
    · exact h.goto hp
    · exact h.waitEnd_ok hp ho
    · exact h.waitEnd_err c
  | pollNow w x =>
    cases ha
    rcases pollNow_cases u w x with ⟨-, e⟩ | ⟨-, e⟩ <;> rw [e]
    · exact h.waitEnd_err _
    · exact h.goto hp
  | initWrite => cases ha; exact (h.writeHcsr (.inl ho.symm)).linkUp
  | sendHeader c => cases ha; cases ho; obtain rfl := hp; exact (h.txPush _).sendNextWord _ 0
  | sendByte c i b acc => cases ha; obtain rfl := hp; exact h.sendByte _ _ _ _
  | sendWord c i w => cases ha; cases ho; obtain rfl := hp; exact (h.txPush w).sendNextWord _ _
  | sendNotify c => cases ha; exact (h.writeHcsr (.inr ⟨ho.symm, rfl⟩)).goto hp
  | sendCheck c => cases ha; obtain rfl := hp; exact h.sendCheck c
  | recvPopHeader c => cases ha; cases ho; obtain rfl := hp; exact h.rxPop.recvNextWord _ _
  | recvPopWord c x => cases ha; cases ho; obtain rfl := hp; exact h.rxPop.recvNextByte _ _ _ _
  | recvByte c x w b => cases ha; obtain rfl := hp; exact (h.msgWrite _ _).recvNextByte _ _ _ _
  | recvCheck c hw => cases ha; obtain rfl := hp; exact h.recvCheck c hw
  | lresetBegin => cases ha; exact (h.writeHcsr (.inl ho.symm)).poll hp
  | lresetEnd => cases ha; exact (h.writeHcsr (.inl ho.symm)).linkResynced
  | hsClearIn x => cases ha; obtain rfl := hp; exact (h.clearDbIn (.inl ho.symm)).goto rfl
  | hsHostReady x => cases ha; cases ho; obtain rfl := hp; exact (h.setComm _ _ _).goto rfl
  | hsRefclk x => cases ha; cases ho; obtain rfl := hp; exact (h.writeRefclk _).goto rfl
  | hsLoaded x => cases ha; cases ho; obtain rfl := hp; exact (h.setComm _ _ _).goto rfl
  | hsReady x => cases ha; cases ho; obtain rfl := hp; exact (h.setComm _ _ _).hsRound (.inl rfl) x
  | hsPayload x i =>
    obtain rfl := hp
    simp only [engineAct, hsPayload] at ha
    rw [eq_of_outWrite_next ha]
    split
    · exact (h.outWindowWrite _ _).goto rfl
    · exact ((h.outWindowWrite _ _).emitWindow (.inl ho.symm) _).goto rfl
  | hsRing x => cases ha; obtain rfl := hp; exact (h.writeDbOut (.inl ho.symm) _).poll rfl
  | hsAckClear x => cases ha; obtain rfl := hp; exact (h.clearDbIn (.inl ho.symm)).hsAwait (.inl ho.symm) _
  | dbHeader c i =>
    obtain rfl := hp
    simp only [engineAct, dbHeader] at ha
    rw [eq_of_outWrite_next ha]
    split
    · exact (h.outWindowWrite _ _).goto rfl
    · exact (h.outWindowWrite _ _).dbNextByte (.inr ho.symm) c 0
  | dbRead c i => cases ha; exact h.goto hp
  | dbWrite c i v =>
    obtain rfl := hp
    simp only [engineAct, dbWrite] at ha
    rw [eq_of_outWrite_next ha]
    exact (h.outWindowWrite _ _).dbNextByte (.inr ho.symm) c _
  | dbRing c =>
    cases ha
    obtain rfl := hp
    have rung := h.writeDbOut (.inr ho.symm) (packetDoorbell u.cfg c.cur)
    unfold dbRing
    dsimp only
    split
    · exact rung.poll rfl
    · exact rung.dbSendNext _
  | dbAckClear c => cases ha; obtain rfl := hp; exact (h.clearDbIn (.inr (.inl ho.symm))).dbSendNext _
  | dbInHeader c d i acc =>
    obtain rfl := hp
    simp only [engineAct, dbInHeader] at ha
    rw [eq_of_inRead_next ha]
    split
    · exact h.goto rfl
    · exact h.dbInCheck c d _
  | dbInRead c hw i =>
    simp only [engineAct, dbInRead] at ha
    rw [eq_of_inRead_next ha]
    exact h.goto hp
  | dbInWrite c hw i v => cases ha; obtain rfl := hp; exact (h.msgWrite _ v).dbInNextByte _ hw _
  | dbInClear c hw => cases ha; obtain rfl := hp; exact h.dbInClear (.inr (.inr ho.symm)) c hw

end Sys2Proof.Machine
end

section
/-! What every command leaves alone (20_memory.md R61, 40_timer.md R112, R114, 42_cb_transport.md R141 to R152,
43_trust.md R173): the port and the results by the owner's frame, the link by the section before, and `RESYNC` along an
INIT, read off at the end of the run. -/

namespace Sys2Proof.Machine

/-! ### The port along a run -/

/-- What a command of owner `o` has left alone of the port, the results and the link's own state, from `s` to `u`. -/
structure PortFrame (o : Owner) (s u : State) : Prop where
  cfg : u.cfg = s.cfg
  cmd : u.cmd = s.cmd
  arg0 : u.arg0 = s.arg0
  arg1 : u.arg1 = s.arg1
  client : u.client = s.client
  buffer : o ≠ .recv → u.msgbuf = s.msgbuf ∧ u.res2 = s.res2 ∧ u.draws = s.draws
  results : o = .link ∨ o = .send → u.res0 = s.res0 ∧ u.res1 = s.res1
  outMsg : o = .timer ∨ o = .query ∨ o = .recv → u.outMsg = s.outMsg
  comm : o ≠ .link → u.comm = s.comm ∧ u.refclk = s.refclk
  link : o = .timer ∨ o = .query → u.lstate = s.lstate ∧ u.resync = s.resync ∧ u.trace = s.trace

theorem PortFrame.refl (o : Owner) (s : State) : PortFrame o s s :=
  ⟨rfl, rfl, rfl, rfl, rfl, fun _ => ⟨rfl, rfl, rfl⟩, fun _ => ⟨rfl, rfl⟩, fun _ => rfl, fun _ => ⟨rfl, rfl⟩,
    fun _ => ⟨rfl, rfl, rfl⟩⟩

/-- An engine step after the environment's moves keeps what they and its owner's steps leave alone. -/
theorem PortFrame.engine {o : Owner} {s u t : State} (h : PortFrame o s u) (f : Frame o u.advance t) :
    PortFrame o s t where
  cfg := by rw [f.cfg, State.advance_cfg, h.cfg]
  cmd := by rw [f.cmd, State.advance_cmd, h.cmd]
  arg0 := by rw [f.arg0, State.advance_arg0, h.arg0]
  arg1 := by rw [f.arg1, State.advance_arg1, h.arg1]
  client := by rw [f.client, State.advance_client, h.client]
  buffer ho := by
    obtain ⟨-, -, hmsg, hres2, hdraws⟩ := f.rxring ho
    rw [hmsg, hres2, hdraws, State.advance_msgbuf, State.advance_res2, State.advance_draws]
    exact h.buffer ho
  results ho := by
    obtain ⟨hres0, hres1⟩ := f.results ho
    rw [hres0, hres1, State.advance_res0, State.advance_res1]
    exact h.results ho
  outMsg ho := by
    obtain ⟨-, -, hout⟩ := f.hcsr ho
    rw [hout, State.advance_outMsg, h.outMsg ho]
  comm ho := by
    obtain ⟨hcomm, hclk⟩ := f.comm ho
    rw [hcomm, hclk, State.advance_comm, State.advance_refclk]
    exact h.comm ho
  link ho := by
    obtain ⟨hl, hr, -, htr⟩ := f.link ho
    rw [hl, hr, htr, State.advance_lstate, State.advance_resync, State.advance_trace]
    exact h.link ho

/-! ### Where a command starts -/

/-- The owner of a command's positions. -/
def commandOwner : Instr → Owner
  | .tstart => .timer
  | .texpired => .timer
  | .init => .link
  | .send _ _ => .send
  | .recv _ => .recv
  | .lreset => .link
  | .classify => .query
  | .hidemask => .query
  | .allowmask => .query

/-- A query has ended, or it reads `STS_A`. -/
theorem beginQuery_cases (q : Query) (s : State) :
    (∃ c, beginQuery q s = s.ret c) ∨ beginQuery q s = s.goto (.queryA q) := by
  unfold beginQuery
  split
  · exact .inr rfl
  · exact .inl ⟨_, rfl⟩

/-- An INIT has ended, or it starts the wait or the handshake of its link's kind. -/
theorem beginInit_cases (s : State) :
    (∃ c, beginInit s = s.ret c) ∨ (s.cfg.kind = .circular ∧ beginInit s = s.poll .initReady) ∨
      (s.cfg.kind = .doorbell ∧ beginInit s = hsBegin s false) := by
  unfold beginInit
  split
  · split
    · exact .inl ⟨_, rfl⟩
    · exact .inl ⟨_, rfl⟩
    · split
      · exact .inr (.inl ⟨‹_›, rfl⟩)
      · exact .inr (.inr ⟨‹_›, rfl⟩)
  · exact .inl ⟨_, rfl⟩

/-- A command has ended at once, or it stands at a position of its owner and of its link's kind; LRESET alone has moved
`LSTATE` before it. -/
theorem beginCommand_cases (i : Instr) (s : State) :
    (∃ c, beginCommand i s = s.ret c) ∨
      ∃ l p, beginCommand i s = (s.setLink l).goto p ∧ p.owner = commandOwner i ∧ p.onKind s.cfg.kind ∧
        (commandOwner i ≠ .link → l = s.lstate) := by
  have query (q : Query) : (∃ c, beginQuery q s = s.ret c) ∨
      ∃ l p, beginQuery q s = (s.setLink l).goto p ∧ p.owner = .query ∧ p.onKind s.cfg.kind ∧
        (Owner.query ≠ .link → l = s.lstate) := by
    rcases beginQuery_cases q s with e | e
    · exact .inl e
    · exact .inr ⟨s.lstate, _, e, rfl, trivial, fun _ => rfl⟩
  cases i with
  | tstart =>
    simp only [beginCommand, beginTstart]
    split
    · exact .inr ⟨s.lstate, _, rfl, rfl, trivial, fun _ => rfl⟩
    · exact .inl ⟨_, rfl⟩
  | texpired =>
    simp only [beginCommand, beginTexpired]
    split
    · exact .inr ⟨s.lstate, _, rfl, rfl, trivial, fun _ => rfl⟩
    · exact .inl ⟨_, rfl⟩
  | init =>
    rcases beginInit_cases s with e | ⟨hk, e⟩ | ⟨hk, e⟩
    · exact .inl e
    · exact .inr ⟨s.lstate, _, e, rfl, hk, fun _ => rfl⟩
    · exact .inr ⟨s.lstate, _, e, rfl, hk, fun _ => rfl⟩
  | send a b =>
    simp only [beginCommand, beginSend]
    split
    · exact .inr ⟨s.lstate, _, rfl, rfl, trivial, fun _ => rfl⟩
    · exact .inl ⟨_, rfl⟩
  | recv blk =>
    simp only [beginCommand, beginRecv]
    split
    · split
      · split <;> exact .inr ⟨s.lstate, _, rfl, rfl, ‹_›, fun _ => rfl⟩
      · exact .inl ⟨_, rfl⟩
    · exact .inl ⟨_, rfl⟩
  | lreset =>
    simp only [beginCommand, beginLreset]
    split
    · split
      · exact .inl ⟨_, rfl⟩
      · split <;> exact .inr ⟨.resetting, _, rfl, rfl, ‹_›, fun ho => absurd rfl ho⟩
    · exact .inl ⟨_, rfl⟩
  | classify => exact query _
  | hidemask => exact query _
  | allowmask => exact query _

/-! ### The run of a command -/

/-- A state of a run of a command of owner `o`, with what the command has left alone since `s`. -/
structure CommandRun (o : Owner) (s u : State) : Prop where
  port : PortFrame o s u
  link : LinkStep s.cfg.kind o s u
  pos : ∀ p, u.seq = .busy p → p.owner = o

theorem beginCommand_run (i : Instr) (s : State) : CommandRun (commandOwner i) s (beginCommand i s) := by
  have same := PortFrame.refl (commandOwner i) s
  have unmoved := LinkFrame.refl s.cfg.kind (commandOwner i) s
  rcases beginCommand_cases i s with ⟨c, e⟩ | ⟨l, p, e, ho, hk, hl⟩ <;> rw [e]
  · exact ⟨{ same with }, unmoved.ret c, fun _ => nofun⟩
  · refine ⟨{ same with link := fun hq => ⟨hl ?_, rfl, rfl⟩ }, ?_, fun q hq => Seq.busy.inj hq ▸ ho⟩
    · rcases hq with hq | hq <;> rw [hq] <;> nofun
    · exact LinkFrame.goto (u := s.setLink l) { unmoved with } hk

theorem CommandRun.engine {o : Owner} {s u t : State} {p : Pos} (h : CommandRun o s u) (hq : u.seq = .busy p)
    (ha : engineAct u.advance p = .next t) : CommandRun o s t := by
  have hkind : u.cfg.kind = s.cfg.kind := by rw [h.port.cfg]
  have hkind' : u.advance.cfg.kind = s.cfg.kind := by rw [State.advance_cfg, hkind]
  have frame : Frame o u.advance t := engineAct_frame (h.pos p hq) ha
  refine ⟨h.port.engine frame,
    engineAct_linkStep (h.link.toLinkFrame.advance hkind) hkind' (h.link.pos p hq) (h.pos p hq) ha, fun q hbusy => ?_⟩
  rcases frame.owner with hidle | ⟨q', hq', ho'⟩
  · rw [hidle] at hbusy; cases hbusy
  · rw [hq'] at hbusy; cases hbusy; exact ho'

/-- At the end of every command stand the frames of its owner. -/
theorem exec_commandRun {i : Instr} {s t : State} (h : exec i s = .next t) : CommandRun (commandOwner i) s t := by
  rw [exec_eq_run] at h
  exact engineRun_induct (fun _ _ _ hq hu ha => hu.engine hq ha) (beginCommand_run i s) h

/-! ### `RESYNC` along an INIT -/

/-- A wait of an INIT. -/
def Wait.ofInit : Wait → Prop
  | .initReady => True
  | .hsIdle x => x.reset = false
  | .hsAck x => x.reset = false
  | _ => False

/-- A position of an INIT: its own two, or one of a handshake that INIT runs. -/
def Pos.ofInit : Pos → Prop
  | .pollStart w => w.ofInit
  | .pollCond w _ => w.ofInit
  | .pollNow w _ => w.ofInit
  | .initWrite => True
  | .hsClearIn x => x.reset = false
  | .hsHostReady x => x.reset = false
  | .hsRefclk x => x.reset = false
  | .hsLoaded x => x.reset = false
  | .hsReady x => x.reset = false
  | .hsPayload x _ => x.reset = false
  | .hsRing x => x.reset = false
  | .hsAckClear x => x.reset = false
  | _ => False

/-- A state of a run of INIT that started with this `RESYNC`. -/
structure InitRun (resync : Bool) (u : State) : Prop where
  kept : u.resync = resync
  pos : ∀ p, u.seq = .busy p → p.ofInit

section
variable {resync : Bool} {u : State} (h : u.resync = resync)
include h

theorem initRun_goto {p : Pos} (hp : p.ofInit) : InitRun resync (u.goto p) := ⟨h, fun _ hq => Seq.busy.inj hq ▸ hp⟩

theorem initRun_poll {w : Wait} (hw : w.ofInit) : InitRun resync (u.poll w) := initRun_goto h hw

theorem initRun_ret (c : ResultCode) : InitRun resync (u.ret c) := ⟨h, fun _ => nofun⟩

theorem initRun_linkUp : InitRun resync u.linkUp := ⟨h, fun _ => nofun⟩

theorem initRun_hsRound {x : HsCtx} (hx : x.reset = false) : InitRun resync (hsRound u x) := by
  rcases hsRound_cases u x with e | ⟨-, e⟩ <;> rw [e]
  · exact initRun_goto (u := u.emitWindow 0) h hx
  · exact initRun_goto h hx

/-- The handshake of an INIT ends with the link up, and not with the resynchronization of an LRESET. -/
theorem initRun_hsAwait {x : HsCtx} (hx : x.reset = false) : InitRun resync (hsAwait u x) := by
  unfold hsAwait hsRoundEnd
  split
  · split
    · exact initRun_hsRound h hx
    · rw [hx]; exact initRun_linkUp h
  · exact initRun_poll h hx

theorem initRun_waitEnd {w : Wait} (hw : w.ofInit) (r : PollEnd) : InitRun resync (waitEnd u r w) := by
  cases w with
  | initReady => cases r with
    | ok => exact initRun_goto h trivial
    | err e => exact initRun_ret h _
  | hsIdle x => cases r with
    | ok => exact initRun_hsAwait (x := { x with acks := u.cfg.dbHsAcks }) h hw
    | err e => exact initRun_ret h _
  | hsAck x => cases r with
    | ok =>
      show InitRun resync (hsAckEnd u x .ok)
      rcases hsAckEnd_ok_cases u x with e | e <;> rw [e]
      · exact initRun_goto h hw
      · exact initRun_ret h _
    | err e => exact initRun_ret h _
  | _ => exact hw.elim

theorem engineAct_initRun {t : State} {p : Pos} (hp : p.ofInit) (ha : engineAct u p = .next t) :
    InitRun resync t := by
  cases p with
  | pollStart w => cases ha; exact initRun_goto h hp
  | pollCond w x =>
    cases ha
    rcases pollCond_cases u w x with ⟨-, e⟩ | ⟨-, e⟩ | ⟨c, -, e⟩ <;> rw [e]
    · exact initRun_goto h hp
    · exact initRun_waitEnd h hp _
    · exact initRun_waitEnd h hp _
  | pollNow w x =>
    cases ha
    rcases pollNow_cases u w x with ⟨-, e⟩ | ⟨-, e⟩ <;> rw [e]
    · exact initRun_waitEnd h hp _
    · exact initRun_goto h hp
  | initWrite => cases ha; exact initRun_linkUp (u := u.writeHcsr (some false) (some true) (some true)) h
  | hsClearIn x => cases ha; exact initRun_goto (u := u.clearDbIn) h hp
  | hsHostReady x => cases ha; exact initRun_goto (u := u.setComm true false false) h hp
  | hsRefclk x => cases ha; exact initRun_goto (u := u.writeRefclk u.cfg.dbRefclk) h hp
  | hsLoaded x => cases ha; exact initRun_goto (u := u.setComm false true false) h hp
  | hsReady x => cases ha; exact initRun_hsRound (u := u.setComm false false true) h hp
  | hsPayload x i =>
    simp only [engineAct, hsPayload] at ha
    rw [eq_of_outWrite_next ha]
    split <;> exact ⟨h, fun _ hq => Seq.busy.inj hq ▸ hp⟩
  | hsRing x => cases ha; exact initRun_poll (u := u.writeDbOut (Doorbell.ofWord u.cfg.dbHsDoorbell)) h hp
  | hsAckClear x => cases ha; exact initRun_hsAwait (u := u.clearDbIn) (x := { x with acks := x.acks - 1 }) h hp
  | _ => exact hp.elim

end

theorem beginInit_initRun (s : State) : InitRun s.resync (beginInit s) := by
  rcases beginInit_cases s with ⟨c, e⟩ | ⟨-, e⟩ | ⟨-, e⟩ <;> rw [e]
  · exact initRun_ret rfl c
  · exact initRun_poll rfl trivial
  · exact initRun_goto rfl rfl

/-- No INIT changes `RESYNC` (42_cb_transport.md R141), however it ends. -/
theorem init_keeps_resync {s t : State} (h : exec .init s = .next t) : t.resync = s.resync := by
  have hend : InitRun s.resync t := by
    refine engineRun_induct (fun u p v hq hu ha => ?_) (beginInit_initRun s) h
    exact engineAct_initRun (by rw [State.advance_resync, hu.kept]) (hu.pos p hq) ha
  exact hend.kept

/-! ### The frame, by owner -/

section
variable {s t : State}

/-- What TSTART, TEXPIRED and the queries leave alone. -/
theorem CommandRun.of_timer_or_query {o : Owner} (h : CommandRun o s t) (ho : o = .timer ∨ o = .query) :
    t.lstate = s.lstate ∧ t.resync = s.resync ∧ t.trace = s.trace ∧ t.msgbuf = s.msgbuf ∧ t.outMsg = s.outMsg ∧
      t.comm = s.comm ∧ t.refclk = s.refclk ∧ t.res2 = s.res2 ∧ t.draws = s.draws ∧ t.hcsr.rst = s.hcsr.rst := by
  have hlink : o ≠ .link := by rcases ho with rfl | rfl <;> nofun
  have hrecv : o ≠ .recv := by rcases ho with rfl | rfl <;> nofun
  obtain ⟨hl, hr, htr⟩ := h.port.link ho
  obtain ⟨hmsg, hres2, hdraws⟩ := h.port.buffer hrecv
  obtain ⟨hcomm, hclk⟩ := h.port.comm hlink
  have hout := h.port.outMsg (ho.imp_right .inl)
  exact ⟨hl, hr, htr, hmsg, hout, hcomm, hclk, hres2, hdraws, h.link.rst hlink⟩

/-- What INIT and LRESET leave alone; `RESYNC` only INIT. -/
theorem CommandRun.of_link {i : Instr} (h : CommandRun .link s t) (hrun : exec i s = .next t) :
    t.msgbuf = s.msgbuf ∧ t.res0 = s.res0 ∧ t.res1 = s.res1 ∧ t.res2 = s.res2 ∧ t.draws = s.draws ∧
      pushes t.trace = pushes s.trace ∧ pops t.trace = pops s.trace ∧
      (i = .init → t.resync = s.resync) ∧
      (s.cfg.kind = .circular →
        t.outMsg = s.outMsg ∧ t.comm = s.comm ∧ t.refclk = s.refclk ∧ t.dbOut = s.dbOut ∧ t.dbIn = s.dbIn) := by
  obtain ⟨hmsg, hres2, hdraws⟩ := h.port.buffer nofun
  obtain ⟨hres0, hres1⟩ := h.port.results (.inl rfl)
  refine ⟨hmsg, hres0, hres1, hres2, hdraws, h.link.trace.pushes_eq nofun, h.link.trace.pops_eq nofun, ?_, h.link.bell⟩
  rintro rfl
  exact init_keeps_resync hrun

/-- What SEND leaves alone. -/
theorem CommandRun.of_send (h : CommandRun .send s t) :
    t.msgbuf = s.msgbuf ∧ t.res0 = s.res0 ∧ t.res1 = s.res1 ∧ t.res2 = s.res2 ∧ t.draws = s.draws ∧
      t.comm = s.comm ∧ t.refclk = s.refclk ∧ t.hcsr.rst = s.hcsr.rst ∧ pops t.trace = pops s.trace ∧
      (s.cfg.kind = .circular → t.outMsg = s.outMsg ∧ t.dbOut = s.dbOut ∧ t.dbIn = s.dbIn) := by
  obtain ⟨hmsg, hres2, hdraws⟩ := h.port.buffer nofun
  obtain ⟨hres0, hres1⟩ := h.port.results (.inr rfl)
  obtain ⟨hcomm, hclk⟩ := h.port.comm nofun
  refine ⟨hmsg, hres0, hres1, hres2, hdraws, hcomm, hclk, h.link.rst nofun, h.link.trace.pops_eq nofun, fun hk => ?_⟩
  obtain ⟨hout, -, -, hdo, hdi⟩ := h.link.bell hk
  exact ⟨hout, hdo, hdi⟩

/-- What RECV leaves alone. -/
theorem CommandRun.of_recv (h : CommandRun .recv s t) :
    t.outMsg = s.outMsg ∧ t.comm = s.comm ∧ t.refclk = s.refclk ∧ t.hcsr.rst = s.hcsr.rst ∧
      pushes t.trace = pushes s.trace ∧ rings t.trace = rings s.trace ∧ windows t.trace = windows s.trace ∧
      (s.cfg.kind = .circular → t.dbOut = s.dbOut ∧ t.dbIn = s.dbIn) := by
  obtain ⟨hcomm, hclk⟩ := h.port.comm nofun
  have hevents : ¬ (Owner.recv = .link ∨ Owner.recv = .send) := by decide
  refine ⟨h.port.outMsg (.inr (.inr rfl)), hcomm, hclk, h.link.rst nofun, h.link.trace.pushes_eq nofun,
    h.link.trace.rings_eq hevents, h.link.trace.windows_eq hevents, fun hk => ?_⟩
  obtain ⟨-, -, -, hdo, hdi⟩ := h.link.bell hk
  exact ⟨hdo, hdi⟩

end

/-- Settles O14, by the frames at the end of the run, owner by owner. The premise of R246 is not needed. -/
theorem commandFrame : Obligations.CommandFrame := by
  intro i s t _ hrun
  have frame := exec_commandRun hrun
  obtain ⟨hcfg, hcmd, harg0, harg1, hclient⟩ := frame.port
  refine ⟨⟨hcfg, hcmd, harg0, harg1, hclient, frame.link.hdepth, frame.link.cdepth⟩, ?_⟩
  cases i with
  | tstart => exact frame.of_timer_or_query (.inl rfl)
  | texpired => exact frame.of_timer_or_query (.inl rfl)
  | init => exact frame.of_link hrun
  | send a b => exact frame.of_send
  | recv blk => exact frame.of_recv
  | lreset => exact frame.of_link hrun
  | classify => exact frame.of_timer_or_query (.inr rfl)
  | hidemask => exact frame.of_timer_or_query (.inr rfl)
  | allowmask => exact frame.of_timer_or_query (.inr rfl)

end Sys2Proof.Machine
end

section
/-! The command word (30_encoding.md R93 to R96): a word is its fixed bits and its operand fields, and the nine rows of
the opcode map are told apart by the opcode. -/

namespace Sys2Proof

/-! ### A word, from its fixed bits and its operands -/

/-- A row of format N fixes every bit. -/
theorem eq_of_selects_maskN {w p : Word} (h : selects w maskN p = true) : w = p := by
  have fixed : w &&& BitVec.allOnes 32 = p := of_decide_eq_true h
  rwa [BitVec.and_allOnes] at fixed

/-- Format X fixes all bits but those of `A` and `B`. -/
theorem maskX_operands (w : Word) :
    (w &&& maskX) ||| ((cmdA w).setWidth 32 <<< 8) ||| ((cmdB w).setWidth 32 <<< 16) = w := by
  ext k hk
  simp only [maskX, cmdA, cmdB]
  interval_cases k <;> simp

/-- Format R fixes all bits but `BLK`. -/
theorem maskR_operand (w : Word) : (w &&& maskR) ||| (if cmdBlk w then 0x01000000 else 0) = w := by
  cases hblk : cmdBlk w
  all_goals
    rw [cmdBlk, BitVec.getLsbD_eq_getElem (by decide)] at hblk
    ext k hk
    simp only [maskR]
    interval_cases k <;> simp [hblk]

theorem encode_send_of_selects {w : Word} (h : selects w maskX 0x00000011 = true) :
    encode (.send (cmdA w) (cmdB w)) = w := by
  have fixed : w &&& maskX = 0x00000011 := of_decide_eq_true h
  have parts := maskX_operands w
  rwa [fixed] at parts

theorem encode_recv_of_selects {w : Word} (h : selects w maskR 0x00000012 = true) : encode (.recv (cmdBlk w)) = w := by
  have fixed : w &&& maskR = 0x00000012 := of_decide_eq_true h
  have parts := maskR_operand w
  rwa [fixed] at parts

/-- A decoded word is the word of its command: seven rows of format N, and the two with operands. -/
theorem encode_of_decodeWord {w : Word} {i : Instr} (h : decodeWord w = .ok i) : encode i = w := by
  unfold decodeWord at h
  repeat' split at h
  all_goals cases h
  any_goals (refine (eq_of_selects_maskN ?_).symm; assumption)
  · exact encode_send_of_selects ‹_›
  · exact encode_recv_of_selects ‹_›

/-! ### The rows are told apart by the opcode -/

/-- A word whose opcode is not that of a row of format N does not select the row. -/
theorem selects_maskN_of_cmdOpc_ne {w p : Word} (h : cmdOpc w ≠ cmdOpc p) : selects w maskN p = false :=
  Bool.eq_false_iff.mpr fun row => h (congrArg cmdOpc (eq_of_selects_maskN row))

/-- Only the rows of format N stand before that of SEND, and none of them has its opcode. -/
theorem decodeWord_of_send_row {w : Word} (hopc : cmdOpc w = 0x11) (hrow : selects w maskX 0x00000011 = true) :
    decodeWord w = .ok (.send (cmdA w) (cmdB w)) := by
  have other {p : Word} (hp : 0x11 ≠ cmdOpc p) : selects w maskN p = false :=
    selects_maskN_of_cmdOpc_ne (hopc ▸ hp)
  simp only [decodeWord, other (p := 0x00000001) (by decide), other (p := 0x00000002) (by decide),
    other (p := 0x00000010) (by decide), hrow, Bool.false_eq_true, if_false, if_true]

/-- The word of every command decodes to the command. -/
theorem decodeWord_encode (i : Instr) : decodeWord (encode i) = .ok i := by
  cases i with
  | send a b =>
    obtain ⟨hrow, -, ha, hb⟩ := Laws.Encoded.send a b rfl
    obtain ⟨-, hopc, -⟩ := Laws.send_word a b
    rw [decodeWord_of_send_row hopc hrow, ha, hb]
  | recv blk => cases blk <;> rfl
  | _ => rfl

/-- Settles O1: the word of a command is taken apart by its row, and a word that selects a row is put together again
from its fixed bits and its operands. -/
theorem decodeEncodeAgree : Obligations.DecodeEncodeAgree :=
  ⟨fun i _ => decodeWord_encode i, fun _ _ h => encode_of_decodeWord h⟩

/-- Settles O2: each word is a closed term that the decoder evaluates. -/
theorem wordsDecode : Obligations.WordsDecode := by
  unfold Obligations.WordsDecode
  decide

/-! ### Words of no row -/

/-- Every command's word selects the command's own row (30_encoding.md R95). -/
theorem encoded_statement (i : Instr) : Laws.Encoded.Statement i := by
  cases i with
  | tstart => exact Laws.Encoded.tstart
  | texpired => exact Laws.Encoded.texpired
  | init => exact Laws.Encoded.init
  | send a b => exact Laws.Encoded.send a b
  | recv blk => exact Laws.Encoded.recv blk
  | lreset => exact Laws.Encoded.lreset
  | classify => exact Laws.Encoded.classify
  | hidemask => exact Laws.Encoded.hidemask
  | allowmask => exact Laws.Encoded.allowmask

theorem Instr.wf_eq_true (i : Instr) : i.wf = true := by cases i <;> rfl

/-- A word that decodes selects the row of its command. -/
theorem and_rowOf_of_decodeWord {w : Word} {i : Instr} (h : decodeWord w = .ok i) :
    w &&& (Laws.rowOf i).1 = (Laws.rowOf i).2 := by
  obtain ⟨hrow, -⟩ := encoded_statement i i.wf_eq_true
  rw [encode_of_decodeWord h] at hrow
  exact of_decide_eq_true hrow

/-- A word that selects the row of no command is illegal. -/
theorem decodeWord_error_of_no_row {w : Word} (h : ∀ i, w &&& (Laws.rowOf i).1 ≠ (Laws.rowOf i).2) :
    ∃ e, decodeWord w = .error e := by
  cases hd : decodeWord w with
  | error e => exact ⟨e, rfl⟩
  | ok i => exact absurd (and_rowOf_of_decodeWord hd) (h i)

/-- Settles O4: the nine rows are those of the commands, so the word is illegal, and starting it is `return
UNSUPPORTED`. -/
theorem illegalWordEnds : Obligations.IllegalWordEnds := by
  intro s hc hq hrows
  have norow (i : Instr) : s.cmd &&& (Laws.rowOf i).1 ≠ (Laws.rowOf i).2 :=
    hrows (Laws.rowOf i) (by cases i <;> simp [Laws.rowOf, maskN, maskX, maskR])
  obtain ⟨e, hd⟩ := decodeWord_error_of_no_row norow
  rw [Machine.step_of_issued hc hq, Machine.startCommand_of_illegal hd]
  rfl

end Sys2Proof
end

section
/-! The register layouts (30_encoding.md R84, R86): a register word is an OR of fields, each shifted to its lowest bit,
and a bit range of it sees exactly the field that lies there. -/

namespace Sys2Proof.Machine

/-! ### One field of a word -/

/-- The word that holds `x` from bit `o` up and is zero elsewhere. -/
def field {n : Nat} (o : Nat) (x : BitVec n) : Word := x.setWidth 32 <<< o

theorem extractLsb'_field_self {n o : Nat} (x : BitVec n) (h : o + n ≤ 32) : (field o x).extractLsb' o n = x := by
  ext k hk
  have inside : o + k < 32 := by omega
  simp [field, inside, BitVec.getLsbD_eq_getElem hk]

theorem extractLsb'_field_beside {n o lo m : Nat} (x : BitVec n) (h : o + n ≤ lo ∨ lo + m ≤ o) :
    (field o x).extractLsb' lo m = 0#m := by
  ext k hk
  rcases h with above | below
  · have past : n ≤ lo + k - o := by omega
    simp [field, BitVec.getLsbD_of_ge x _ past]
  · have before : lo + k < o := by omega
    simp [field, before]

theorem getLsbD_flag_self {o : Nat} (b : Bool) (h : o < 32) : (field o (BitVec.ofBool b)).getLsbD o = b := by
  simp [field, h]

theorem getLsbD_field_beside {n o k : Nat} (x : BitVec n) (h : o + n ≤ k ∨ k < o) : (field o x).getLsbD k = false := by
  rcases h with above | below
  · have past : n ≤ k - o := by omega
    simp [field, BitVec.getLsbD_of_ge x _ past]
  · simp [field, below]

/-! ### The control/status and doorbell registers -/

theorem Csr.toWord_eq_fields (c : Csr) :
    c.toWord = field 0 c.wp ||| field 8 c.rp ||| field 16 c.depth ||| field 24 (BitVec.ofBool c.rst) |||
      field 25 (BitVec.ofBool c.rdy) ||| field 26 (BitVec.ofBool c.ig) ||| field 27 (BitVec.ofBool c.is) := by
  simp only [Csr.toWord, field, BitVec.shiftLeft_zero]

theorem Doorbell.toWord_eq_fields (d : Doorbell) :
    d.toWord = field 0 d.len ||| field 10 d.proto ||| field 14 d.subcmd ||| field 18 (BitVec.ofBool d.busy) := by
  simp only [Doorbell.toWord, field, BitVec.shiftLeft_zero]

/-- A bit range of a control/status word. -/
theorem Csr.extractLsb'_toWord (c : Csr) :
    c.toWord.extractLsb' 0 8 = c.wp ∧ c.toWord.extractLsb' 8 8 = c.rp ∧ c.toWord.extractLsb' 16 8 = c.depth ∧
      c.toWord.extractLsb' 28 4 = 0 := by
  rw [c.toWord_eq_fields]
  simp (disch := omega) only [BitVec.extractLsb'_or, extractLsb'_field_self, extractLsb'_field_beside,
    BitVec.zero_or, BitVec.or_zero, BitVec.ofNat_eq_ofNat, and_self]

/-- A flag of a control/status word. -/
theorem Csr.getLsbD_toWord (c : Csr) :
    c.toWord.getLsbD 24 = c.rst ∧ c.toWord.getLsbD 25 = c.rdy ∧ c.toWord.getLsbD 26 = c.ig ∧
      c.toWord.getLsbD 27 = c.is := by
  rw [c.toWord_eq_fields]
  simp (disch := omega) only [BitVec.getLsbD_or, getLsbD_flag_self, getLsbD_field_beside, Bool.false_or,
    Bool.or_false, and_self]

theorem Csr.ofWord_toWord (c : Csr) : Csr.ofWord c.toWord = c := by
  obtain ⟨hwp, hrp, hdepth, -⟩ := c.extractLsb'_toWord
  obtain ⟨hrst, hrdy, hig, his⟩ := c.getLsbD_toWord
  simp only [Csr.ofWord, hwp, hrp, hdepth, hrst, hrdy, hig, his]

/-- A bit range of a doorbell word. -/
theorem Doorbell.extractLsb'_toWord (d : Doorbell) :
    d.toWord.extractLsb' 0 10 = d.len ∧ d.toWord.extractLsb' 10 4 = d.proto ∧
      d.toWord.extractLsb' 14 4 = d.subcmd ∧ d.toWord.extractLsb' 19 13 = 0 := by
  rw [d.toWord_eq_fields]
  simp (disch := omega) only [BitVec.extractLsb'_or, extractLsb'_field_self, extractLsb'_field_beside,
    BitVec.zero_or, BitVec.or_zero, BitVec.ofNat_eq_ofNat, and_self]

theorem Doorbell.getLsbD_toWord (d : Doorbell) : d.toWord.getLsbD 18 = d.busy := by
  rw [d.toWord_eq_fields]
  simp (disch := omega) only [BitVec.getLsbD_or, getLsbD_flag_self, getLsbD_field_beside, Bool.false_or]

theorem Doorbell.ofWord_toWord (d : Doorbell) : Doorbell.ofWord d.toWord = d := by
  obtain ⟨hlen, hproto, hsub, -⟩ := d.extractLsb'_toWord
  simp only [Doorbell.ofWord, hlen, hproto, hsub, d.getLsbD_toWord]

/-- Settles O34: the ranges, the flags, and the reading back, for each of the two registers. -/
theorem registerLayouts : Obligations.RegisterLayouts := by
  refine ⟨fun c => ?_, fun d => ?_⟩
  · obtain ⟨hwp, hrp, hdepth, hzero⟩ := c.extractLsb'_toWord
    obtain ⟨hrst, hrdy, hig, his⟩ := c.getLsbD_toWord
    exact ⟨hwp, hrp, hdepth, hrst, hrdy, hig, his, hzero, c.ofWord_toWord⟩
  · obtain ⟨hlen, hproto, hsub, hzero⟩ := d.extractLsb'_toWord
    exact ⟨hlen, hproto, hsub, d.getLsbD_toWord, hzero, d.ofWord_toWord⟩

end Sys2Proof.Machine
end

section
/-! Who may change what in the two control/status registers (30_encoding.md R85). An engine step makes at most one of
three accesses to them, a flag write, a push or a pop, and what follows the access in the same step leaves them
alone. -/

namespace Sys2Proof.Machine

/-! ### The accesses of the engine -/

/-- The two control/status registers and the rings they point into are the same. -/
structure CsrKept (s t : State) : Prop where
  hcsr : t.hcsr = s.hcsr
  ccsr : t.ccsr = s.ccsr
  txring : t.txring = s.txring
  rxring : t.rxring = s.rxring

theorem CsrKept.trans {s t u : State} (h : CsrKept s t) (k : CsrKept t u) : CsrKept s u :=
  ⟨k.hcsr.trans h.hcsr, k.ccsr.trans h.ccsr, k.txring.trans h.txring, k.rxring.trans h.rxring⟩

/-- The accesses that one engine step from `s` to `t` can make to the registers: none, a write of `HCSR` that clears
neither `RDY` nor `IG` (20_memory.md R60), one push (R56) or one pop (R57). -/
inductive CsrAccess (s t : State) : Prop
  | none (kept : CsrKept s t)
  | flags (rst rdy ig : Option Bool) (hrdy : rdy ≠ some false) (hig : ig ≠ some false)
      (kept : CsrKept (s.writeHcsr rst rdy ig) t)
  | push (w : Word) (kept : CsrKept (s.txPush w) t) (trace : t.trace = s.trace ++ [.push w])
  | pop (kept : CsrKept s.rxPop t) (trace : t.trace = s.trace ++ [.pop s.rxFront])

/-- A flag that is 1 stays 1 under a write that does not name it or sets it. -/
theorem getD_of_ne_some_false {o : Option Bool} (ho : o ≠ some false) {b : Bool} (hb : b = true) : o.getD b = true := by
  cases o with
  | none => exact hb
  | some v => cases v with
    | false => exact absurd rfl ho
    | true => rfl

/-! ### What follows an access -/

section
variable (s : State)

theorem txSendBegin_csrKept (dst src : Byte) (len : Nat) : CsrKept s (txSendBegin s dst src len) := by
  rcases txSendBegin_cases s dst src len with e | ⟨c, e⟩ <;> rw [e] <;> exact ⟨rfl, rfl, rfl, rfl⟩

theorem dbSendBegin_csrKept (dst src : Byte) (len : Nat) : CsrKept s (dbSendBegin s dst src len) := by
  rcases dbSendBegin_cases s dst src len with e | ⟨c, -, e⟩ <;> rw [e] <;> exact ⟨rfl, rfl, rfl, rfl⟩

theorem gateEnd_csrKept (g : GateCtx) (p : Path) (cat : Nat) : CsrKept s (gateEnd s g p cat) := by
  rcases gateEnd_cases s g p cat with ⟨c, e⟩ | ⟨-, e⟩ | ⟨-, e⟩ <;> rw [e]
  · exact ⟨rfl, rfl, rfl, rfl⟩
  · exact txSendBegin_csrKept s _ _ _
  · exact dbSendBegin_csrKept s _ _ _

/-- After a push, the next word is prepared: no register, no event. -/
theorem sendNextWord_csrKept (c : SendCtx) (i : Nat) :
    CsrKept s (sendNextWord s c i) ∧ (sendNextWord s c i).trace = s.trace := by
  rcases sendNextWord_cases s c i with ⟨-, e⟩ | e <;> rw [e] <;> exact ⟨⟨rfl, rfl, rfl, rfl⟩, rfl⟩

theorem sendByte_csrKept (c : SendCtx) (i b : Nat) (acc : Word) : CsrKept s (sendByte s c i b acc) := by
  obtain ⟨acc', e | e⟩ := sendByte_cases s c i b acc <;> rw [e] <;> exact ⟨rfl, rfl, rfl, rfl⟩

theorem sendCheck_csrKept (c : SendCtx) : CsrKept s (sendCheck s c) := by
  unfold sendCheck
  split
  · rcases txSendNext_cases s c with e | ⟨p, ps, -, e⟩ <;> rw [e] <;> exact ⟨rfl, rfl, rfl, rfl⟩
  · exact ⟨rfl, rfl, rfl, rfl⟩

/-- After a pop of a header, the next word is awaited: no register, no event. -/
theorem recvNextWord_csrKept (c : RecvCtx) (p : RxPacket) :
    CsrKept s (recvNextWord s c p) ∧ (recvNextWord s c p).trace = s.trace := by
  rcases recvNextWord_cases s c p with ⟨-, e⟩ | e <;> rw [e] <;> exact ⟨⟨rfl, rfl, rfl, rfl⟩, rfl⟩

/-- After a pop of a payload word, its bytes are stored: no register, no event. -/
theorem recvNextByte_csrKept (c : RecvCtx) (p : RxPacket) (w : Word) (b : Nat) :
    CsrKept s (recvNextByte s c p w b) ∧ (recvNextByte s c p w b).trace = s.trace := by
  rcases recvNextByte_cases s c p w b with ⟨-, e⟩ | ⟨small, e⟩ <;> rw [e]
  · exact ⟨⟨rfl, rfl, rfl, rfl⟩, rfl⟩
  · exact recvNextWord_csrKept s _ _

theorem recvCheck_csrKept (c : RecvCtx) (hw : Word) : CsrKept s (recvCheck s c hw) := by
  rcases recvCheck_cases s c hw with e | e | e <;> rw [e] <;> exact ⟨rfl, rfl, rfl, rfl⟩

theorem dbSendNext_csrKept (c : SendCtx) : CsrKept s (dbSendNext s c) := by
  rcases dbSendNext_cases s c with e | ⟨p, ps, -, e⟩ <;> rw [e] <;> exact ⟨rfl, rfl, rfl, rfl⟩

theorem dbNextByte_csrKept (c : SendCtx) (k : Nat) : CsrKept s (dbNextByte s c k) := by
  rcases dbNextByte_cases s c k with ⟨-, e⟩ | e <;> rw [e] <;> exact ⟨rfl, rfl, rfl, rfl⟩

theorem dbInNextByte_csrKept (c : RecvCtx) (hw : Word) (k : Nat) : CsrKept s (dbInNextByte s c hw k) := by
  rcases dbInNextByte_cases s c hw k with ⟨-, -, e⟩ | ⟨small, e⟩ <;> rw [e] <;> exact ⟨rfl, rfl, rfl, rfl⟩

theorem dbInCheck_csrKept (c : RecvCtx) (d : Doorbell) (hw : Word) : CsrKept s (dbInCheck s c d hw) := by
  rcases dbInCheck_cases s c d hw with ⟨-, e⟩ | e <;> rw [e]
  · exact dbInNextByte_csrKept s c hw 0
  · exact ⟨rfl, rfl, rfl, rfl⟩

theorem dbInClear_csrKept (c : RecvCtx) (hw : Word) : CsrKept s (dbInClear s c hw) := by
  obtain ⟨c', -, e | e⟩ := dbInClear_cases s c hw <;> rw [e] <;> exact ⟨rfl, rfl, rfl, rfl⟩

theorem hsRound_csrKept (h : HsCtx) : CsrKept s (hsRound s h) := by
  rcases hsRound_cases s h with e | ⟨-, e⟩ <;> rw [e] <;> exact ⟨rfl, rfl, rfl, rfl⟩

theorem hsAwait_csrKept (h : HsCtx) : CsrKept s (hsAwait s h) := by
  rcases hsAwait_cases s h with ⟨x, e⟩ | e | e | e <;> rw [e]
  · exact hsRound_csrKept s x
  all_goals exact ⟨rfl, rfl, rfl, rfl⟩

/-- A wait that has ended well goes on at the next access. -/
theorem waitEnd_ok_csrKept (w : Wait) : CsrKept s (waitEnd s .ok w) := by
  cases w with
  | hsIdle h => exact hsAwait_csrKept s _
  | hsAck h =>
    show CsrKept s (hsAckEnd s h .ok)
    rcases hsAckEnd_ok_cases s h with e | e <;> rw [e] <;> exact ⟨rfl, rfl, rfl, rfl⟩
  | dbAck c =>
    show CsrKept s (dbAckEnd s c .ok)
    rcases dbAckEnd_ok_cases s c with e | e <;> rw [e] <;> exact ⟨rfl, rfl, rfl, rfl⟩
  | dbEvent c =>
    show CsrKept s (dbEventEnd s c .ok)
    rcases dbEventEnd_ok_cases s c with e | e <;> rw [e] <;> exact ⟨rfl, rfl, rfl, rfl⟩
  | _ => exact ⟨rfl, rfl, rfl, rfl⟩

/-- A wait that has failed ends the command. -/
theorem waitEnd_err_csrKept (w : Wait) (c : ResultCode) : CsrKept s (waitEnd s (.err c) w) := by
  cases w with
  | recvHeader x =>
    show CsrKept s (recvHeaderEnd s x (.err c))
    rcases recvHeaderEnd_err_cases s x c with e | e <;> rw [e] <;> exact ⟨rfl, rfl, rfl, rfl⟩
  | dbEvent x =>
    show CsrKept s (dbEventEnd s x (.err c))
    rcases dbEventEnd_err_cases s x c with e | e <;> rw [e] <;> exact ⟨rfl, rfl, rfl, rfl⟩
  | _ => exact ⟨rfl, rfl, rfl, rfl⟩

theorem pollCond_csrKept (w : Wait) (x : Timer) : CsrKept s (pollCond s w x) := by
  rcases pollCond_cases s w x with ⟨-, e⟩ | ⟨-, e⟩ | ⟨c, -, e⟩ <;> rw [e]
  · exact ⟨rfl, rfl, rfl, rfl⟩
  · exact waitEnd_ok_csrKept s w
  · exact waitEnd_err_csrKept s w c

theorem pollNow_csrKept (w : Wait) (x : Timer) : CsrKept s (pollNow s w x) := by
  rcases pollNow_cases s w x with ⟨-, e⟩ | ⟨-, e⟩ <;> rw [e]
  · exact waitEnd_err_csrKept s w .timeout
  · exact ⟨rfl, rfl, rfl, rfl⟩

end

/-! ### One atomic step -/

/-- A push, and what the step does after it. -/
theorem csrAccess_of_push {s t : State} {w : Word} (h : CsrKept (s.txPush w) t ∧ t.trace = (s.txPush w).trace) :
    CsrAccess s t :=
  .push w h.left h.right

/-- A pop, and what the step does after it. -/
theorem csrAccess_of_pop {s t : State} (h : CsrKept s.rxPop t ∧ t.trace = s.rxPop.trace) : CsrAccess s t :=
  .pop h.left h.right

/-- A change of other fields, and what the step does after it. -/
theorem csrAccess_of_other {s u t : State} (h : CsrKept u t) (other : CsrKept s u) : CsrAccess s t :=
  .none (other.trans h)

/-- Every position makes at most one access to the registers: the pushes are those of SEND, the pops those of RECV, the
flag writes those of INIT, LRESET and the notification of SEND. -/
theorem engineAct_csrAccess {s t : State} {p : Pos} (ha : engineAct s p = .next t) : CsrAccess s t := by
  cases p with
  | initWrite => cases ha; exact .flags (some false) (some true) (some true) nofun nofun ⟨rfl, rfl, rfl, rfl⟩
  | lresetBegin => cases ha; exact .flags (some true) none (some true) nofun nofun ⟨rfl, rfl, rfl, rfl⟩
  | lresetEnd => cases ha; exact .flags (some false) (some true) (some true) nofun nofun ⟨rfl, rfl, rfl, rfl⟩
  | sendNotify c => cases ha; exact .flags none none (some true) nofun nofun ⟨rfl, rfl, rfl, rfl⟩
  | sendHeader c => cases ha; exact csrAccess_of_push (sendNextWord_csrKept _ _ _)
  | sendWord c i w => cases ha; exact csrAccess_of_push (sendNextWord_csrKept _ _ _)
  | recvPopHeader c => cases ha; exact csrAccess_of_pop (recvNextWord_csrKept _ _ _)
  | recvPopWord c x => cases ha; exact csrAccess_of_pop (recvNextByte_csrKept _ _ _ _ _)
  | queryB q a => cases ha; cases q <;> exact .none ⟨rfl, rfl, rfl, rfl⟩
  | gateB g a =>
    cases ha
    unfold gateB
    dsimp only
    split
    · exact .none ⟨rfl, rfl, rfl, rfl⟩
    · exact .none (gateEnd_csrKept s _ _ _)
  | gateCommand g x group => cases ha; exact .none (gateEnd_csrKept s _ _ _)
  | pollCond w x => cases ha; exact .none (pollCond_csrKept s w x)
  | pollNow w x => cases ha; exact .none (pollNow_csrKept s w x)
  | sendByte c i b acc => cases ha; exact .none (sendByte_csrKept s c i b acc)
  | sendCheck c => cases ha; exact .none (sendCheck_csrKept s c)
  | recvByte c x w b =>
    cases ha
    obtain ⟨kept, -⟩ := recvNextByte_csrKept (s.msgWrite c.n (unpackByte w b)) { c with n := c.n + 1 } x w (b + 1)
    exact csrAccess_of_other kept ⟨rfl, rfl, rfl, rfl⟩
  | recvCheck c hw => cases ha; exact .none (recvCheck_csrKept s c hw)
  | hsReady x =>
    cases ha
    exact csrAccess_of_other (hsRound_csrKept (s.setComm false false true) x) ⟨rfl, rfl, rfl, rfl⟩
  | hsPayload x i =>
    simp only [engineAct, hsPayload] at ha
    rw [eq_of_outWrite_next ha]
    split <;> exact .none ⟨rfl, rfl, rfl, rfl⟩
  | hsAckClear x => cases ha; exact csrAccess_of_other (hsAwait_csrKept s.clearDbIn _) ⟨rfl, rfl, rfl, rfl⟩
  | dbHeader c i =>
    simp only [engineAct, dbHeader] at ha
    rw [eq_of_outWrite_next ha]
    split
    · exact .none ⟨rfl, rfl, rfl, rfl⟩
    · exact csrAccess_of_other (dbNextByte_csrKept _ c 0) ⟨rfl, rfl, rfl, rfl⟩
  | dbWrite c i v =>
    simp only [engineAct, dbWrite] at ha
    rw [eq_of_outWrite_next ha]
    exact csrAccess_of_other (dbNextByte_csrKept _ c _) ⟨rfl, rfl, rfl, rfl⟩
  | dbRing c =>
    cases ha
    unfold dbRing
    dsimp only
    split
    · exact .none ⟨rfl, rfl, rfl, rfl⟩
    · exact csrAccess_of_other (dbSendNext_csrKept _ _) ⟨rfl, rfl, rfl, rfl⟩
  | dbAckClear c => cases ha; exact csrAccess_of_other (dbSendNext_csrKept s.clearDbIn _) ⟨rfl, rfl, rfl, rfl⟩
  | dbInHeader c d i acc =>
    simp only [engineAct, dbInHeader] at ha
    rw [eq_of_inRead_next ha]
    split
    · exact .none ⟨rfl, rfl, rfl, rfl⟩
    · exact .none (dbInCheck_csrKept s c d _)
  | dbInRead c hw i =>
    simp only [engineAct, dbInRead] at ha
    rw [eq_of_inRead_next ha]
    exact .none ⟨rfl, rfl, rfl, rfl⟩
  | dbInWrite c hw i v =>
    cases ha
    exact csrAccess_of_other (dbInNextByte_csrKept (s.msgWrite c.n v) _ hw _) ⟨rfl, rfl, rfl, rfl⟩
  | dbInClear c hw => cases ha; exact .none (dbInClear_csrKept s c hw)
  | _ => cases ha; exact .none ⟨rfl, rfl, rfl, rfl⟩

/-- The rights of the engine (30_encoding.md R85), read off its access. -/
theorem CsrAccess.rights {s t : State} (h : CsrAccess s t) :
    t.hcsr.rp = s.hcsr.rp ∧ t.hcsr.depth = s.hcsr.depth ∧ t.hcsr.is = s.hcsr.is ∧
      (s.hcsr.rdy = true → t.hcsr.rdy = true) ∧ (s.hcsr.ig = true → t.hcsr.ig = true) ∧
      (t.hcsr.wp = s.hcsr.wp ∧ t.txring = s.txring ∨
        ∃ w, t.hcsr.wp = s.hcsr.wp + 1 ∧ t.txring = s.txring ++ [w] ∧ t.trace = s.trace ++ [.push w]) ∧
      t.ccsr.wp = s.ccsr.wp ∧ t.ccsr.depth = s.ccsr.depth ∧ t.ccsr.rst = s.ccsr.rst ∧ t.ccsr.rdy = s.ccsr.rdy ∧
      t.ccsr.ig = s.ccsr.ig ∧ t.ccsr.is = s.ccsr.is ∧
      (t.ccsr.rp = s.ccsr.rp ∧ t.rxring = s.rxring ∨
        ∃ w, t.ccsr.rp = s.ccsr.rp + 1 ∧ t.rxring = s.rxring.tail ∧ t.trace = s.trace ++ [.pop w]) := by
  cases h with
  | none kept =>
    rw [kept.hcsr, kept.ccsr, kept.txring, kept.rxring]
    exact ⟨rfl, rfl, rfl, id, id, .inl ⟨rfl, rfl⟩, rfl, rfl, rfl, rfl, rfl, rfl, .inl ⟨rfl, rfl⟩⟩
  | flags rst rdy ig hrdy hig kept =>
    rw [kept.hcsr, kept.ccsr, kept.txring, kept.rxring]
    exact ⟨rfl, rfl, rfl, getD_of_ne_some_false hrdy, getD_of_ne_some_false hig, .inl ⟨rfl, rfl⟩, rfl, rfl, rfl, rfl,
      rfl, rfl, .inl ⟨rfl, rfl⟩⟩
  | push w kept trace =>
    rw [kept.hcsr, kept.ccsr, kept.txring, kept.rxring]
    exact ⟨rfl, rfl, rfl, id, id, .inr ⟨w, rfl, rfl, trace⟩, rfl, rfl, rfl, rfl, rfl, rfl, .inl ⟨rfl, rfl⟩⟩
  | pop kept trace =>
    rw [kept.hcsr, kept.ccsr, kept.txring, kept.rxring]
    exact ⟨rfl, rfl, rfl, id, id, .inl ⟨rfl, rfl⟩, rfl, rfl, rfl, rfl, rfl, rfl, .inr ⟨_, rfl, rfl, trace⟩⟩

/-! ### The client and the environment -/

/-- The client's moves reach the command port and `MSGBUF` only. -/
theorem clientMove_csrKept (s : State) (m : ClientMove) : CsrKept s (s.clientMove m) := by
  cases m with
  | skipUnless code n => simp only [State.clientMove]; split <;> exact ⟨rfl, rfl, rfl, rfl⟩
  | _ => exact ⟨rfl, rfl, rfl, rfl⟩

/-- What a move that is neither an accepted reset nor a disturbance of the pointers leaves of the engine's fields: `RDY`
and `WP` of `HCSR`, `RP` of `CCSR`; `IG` it may clear. -/
structure EngineFieldsKept (s t : State) : Prop where
  rdy : t.hcsr.rdy = s.hcsr.rdy
  ig : t.hcsr.ig = s.hcsr.ig ∨ t.hcsr.ig = false
  wp : t.hcsr.wp = s.hcsr.wp
  rp : t.ccsr.rp = s.ccsr.rp

theorem consume_engineFieldsKept (s : State) : EngineFieldsKept s s.consume := by
  rcases s.consume_eq with e | e <;> rw [e] <;> exact ⟨rfl, .inl rfl, rfl, rfl⟩

theorem whenDoorbell_engineFieldsKept {s t : State} (h : EngineFieldsKept s t) :
    EngineFieldsKept s (s.whenDoorbell t) := by
  unfold State.whenDoorbell
  split
  · exact h
  · exact ⟨rfl, .inl rfl, rfl, rfl⟩

theorem envMove_engineFieldsKept (s : State) {m : EnvMove} (hreset : m ≠ .acceptReset)
    (hdisturb : ∀ cw cr hr, m ≠ .disturbPointers cw cr hr) : EngineFieldsKept s (s.envMove m) := by
  cases m with
  | acceptReset => exact absurd rfl hreset
  | disturbPointers cw cr hr => exact absurd rfl (hdisturb cw cr hr)
  | consume => exact consume_engineFieldsKept s
  | ccsrFlag f v => cases f <;> exact ⟨rfl, .inl rfl, rfl, rfl⟩
  | clearHcsrIg => exact ⟨rfl, .inr rfl, rfl, rfl⟩
  | disturbRing ws => simp only [State.envMove]; split <;> exact ⟨rfl, .inl rfl, rfl, rfl⟩
  | loseTxWord i => simp only [State.envMove]; split <;> exact ⟨rfl, .inl rfl, rfl, rfl⟩
  | takeOut => exact whenDoorbell_engineFieldsKept ⟨rfl, .inl rfl, rfl, rfl⟩
  | writeInMsg i b => exact whenDoorbell_engineFieldsKept (by split <;> exact ⟨rfl, .inl rfl, rfl, rfl⟩)
  | postIn w => exact whenDoorbell_engineFieldsKept (by split <;> exact ⟨rfl, .inl rfl, rfl, rfl⟩)
  | forceIn w => exact whenDoorbell_engineFieldsKept ⟨rfl, .inl rfl, rfl, rfl⟩
  | loopback =>
    show EngineFieldsKept s s.loopback
    rcases loopback_cases s with e | ⟨-, w, e⟩ <;> rw [e]
    · exact ⟨rfl, .inl rfl, rfl, rfl⟩
    · obtain ⟨hrdy, hig, hwp, hrp⟩ := consume_engineFieldsKept s
      exact ⟨hrdy, hig, hwp, hrp⟩
  | _ => exact ⟨rfl, .inl rfl, rfl, rfl⟩

theorem acceptReset_of_not_rst {s : State} (h : ¬ s.hcsr.rst = true) : s.acceptReset = s := by
  unfold State.acceptReset
  rw [if_neg h]

/-- Settles O11: the engine by its one access, the client by its frame, the environment by whether the move is an
accepted reset (20_memory.md R69), a disturbance of the pointers (R70), or neither. -/
theorem csrAccessRights : Obligations.CsrAccessRights := by
  refine ⟨fun s t p ha => (engineAct_csrAccess ha).rights, fun s m => ?_, fun s m => ?_⟩
  · have kept := clientMove_csrKept s m
    exact ⟨kept.hcsr, kept.ccsr⟩
  refine ⟨s.envMove_hcsr_depth m, s.envMove_ccsr_depth m, s.envMove_hcsr_rst m, ?_⟩
  by_cases hreset : m = .acceptReset
  · subst hreset
    dsimp only [State.envMove]
    by_cases hrst : s.hcsr.rst = true
    · rw [acceptReset_of_rst hrst]
      exact ⟨.inr ⟨rfl, hrst, rfl⟩, .inl rfl, .inr ⟨rfl, hrst, rfl⟩, .inr (.inl ⟨rfl, hrst, rfl⟩)⟩
    · rw [acceptReset_of_not_rst hrst]
      exact ⟨.inl rfl, .inl rfl, .inl rfl, .inl rfl⟩
  by_cases hdisturb : ∃ cw cr hr, m = .disturbPointers cw cr hr
  · obtain ⟨cw, cr, hr, rfl⟩ := hdisturb
    exact ⟨.inl rfl, .inl rfl, .inl rfl, .inr (.inr rfl)⟩
  have kept := envMove_engineFieldsKept s hreset fun cw cr hr e => hdisturb ⟨cw, cr, hr, e⟩
  exact ⟨.inl kept.rdy, kept.ig, .inl kept.wp, .inl kept.rp⟩

end Sys2Proof.Machine
end

section
/-! The timer (40_timer.md R110 to R115): the expiry test as a proposition and in closed form, and the two timer
commands, which make at most one access, the read of `COUNTER`. -/

namespace Sys2Proof.Machine

/-! ### The expiry test -/

/-- The four cases of 40_timer.md R113, each strict exactly where the rule says so. -/
theorem expired_iff (start stop now : Nat) :
    expired start stop now = true ↔
      start = stop ∨ (start < stop ∧ (stop ≤ now ∨ now < start)) ∨ (stop < start ∧ stop < now ∧ now < start) := by
  unfold expired
  split
  · simp only [Bool.or_eq_true, decide_eq_true_eq]
    omega
  split
  · simp only [Bool.and_eq_true, decide_eq_true_eq]
    omega
  · simp only [true_iff]
    omega

/-- The ticks from `a` to `b` where the counter has not wrapped. -/
theorem elapsed_of_le {m a b : Nat} (hb : b < m) (h : a ≤ b) : (b + m - a) % m = b - a := by
  rw [Nat.sub_add_comm h, Nat.add_mod_right, Nat.mod_eq_of_lt (by omega)]

/-- The ticks from `a` to `b` where the counter has wrapped once. -/
theorem elapsed_of_lt {m a b : Nat} (ha : a < m) (h : b < a) : (b + m - a) % m = b + m - a :=
  Nat.mod_eq_of_lt (by omega)

/-- Settles O23: by which side of `start` the deadline and the sample lie, that is, which of the two distances wraps. -/
theorem expiredClosedForm : Obligations.ExpiredClosedForm := by
  intro cw start stop now hstart hstop hnow
  dsimp only
  rw [expired_iff]
  generalize 2 ^ cw = m at hstart hstop hnow ⊢
  rcases Nat.lt_or_ge stop start with deadlineWraps | deadlineAhead <;>
    rcases Nat.lt_or_ge now start with nowWraps | nowAhead
  · rw [elapsed_of_lt hstart deadlineWraps, elapsed_of_lt hstart nowWraps]
    omega
  · rw [elapsed_of_lt hstart deadlineWraps, elapsed_of_le hnow nowAhead]
    omega
  · rw [elapsed_of_le hstop deadlineAhead, elapsed_of_lt hstart nowWraps]
    omega
  · rw [elapsed_of_le hstop deadlineAhead, elapsed_of_le hnow nowAhead]
    omega

/-! ### The timer commands -/

/-- A command whose next access is its last, and is not a poll's expiry test, ends with that access. -/
theorem runCommand_goto_last {s t : State} {p : Pos} (hp : ∀ w x, p ≠ .pollNow w x)
    (ha : engineAct (s.advance.goto p) p = .next t) (ht : t.seq = .idle) : runCommand (s.goto p) = .next t :=
  runCommand_of_reaches (.one rfl (spins_eq_false hp) (s.advance_goto p ▸ ha)) (by decide) ht

theorem isCounterValue_iff (c : Config) (n : Nat) : isCounterValue c n = true ↔ n < 2 ^ c.cw := decide_eq_true_iff

section
variable {s : State}

/-- A TSTART whose duration the counter holds ends at its read of the counter (40_timer.md R112). -/
theorem exec_tstart_of_fits (h : ticksOf s.cfg s.arg0.toNat < 2 ^ s.cfg.cw) :
    exec .tstart s = .next (tstartNow s.advance s.arg0.toNat) := by
  have start : beginTstart s = s.goto (.tstartNow s.arg0.toNat) := if_pos ((isCounterValue_iff _ _).mpr h)
  rw [exec_eq_run, beginCommand, start]
  exact runCommand_goto_last nofun rfl rfl

/-- A TSTART whose duration the counter does not hold ends before any access. -/
theorem exec_tstart_of_not_fits (h : ¬ ticksOf s.cfg s.arg0.toNat < 2 ^ s.cfg.cw) :
    exec .tstart s = .next (s.ret .unsupported) := by
  have start : beginTstart s = s.ret .unsupported := if_neg fun fits => h ((isCounterValue_iff _ _).mp fits)
  rw [exec_eq_run, beginCommand, start, runCommand_ret]

theorem isCounterValue_operands_iff :
    (isCounterValue s.cfg s.arg0.toNat && isCounterValue s.cfg s.arg1.toNat) = true ↔
      s.arg0.toNat < 2 ^ s.cfg.cw ∧ s.arg1.toNat < 2 ^ s.cfg.cw := by
  rw [Bool.and_eq_true, isCounterValue_iff, isCounterValue_iff]

/-- A TEXPIRED with two counter values ends at its read of the counter (40_timer.md R114). -/
theorem exec_texpired_of_fits (h : s.arg0.toNat < 2 ^ s.cfg.cw ∧ s.arg1.toNat < 2 ^ s.cfg.cw) :
    exec .texpired s = .next (texpiredNow s.advance { start := s.arg0.toNat, stop := s.arg1.toNat }) := by
  have start : beginTexpired s = s.goto (.texpiredNow { start := s.arg0.toNat, stop := s.arg1.toNat }) :=
    if_pos (isCounterValue_operands_iff.mpr h)
  rw [exec_eq_run, beginCommand, start]
  exact runCommand_goto_last nofun rfl rfl

/-- A TEXPIRED with an operand that is no counter value ends before any access. -/
theorem exec_texpired_of_not_fits (h : ¬ (s.arg0.toNat < 2 ^ s.cfg.cw ∧ s.arg1.toNat < 2 ^ s.cfg.cw)) :
    exec .texpired s = .next (s.ret .unsupported) := by
  have start : beginTexpired s = s.ret .unsupported := if_neg fun fits => h (isCounterValue_operands_iff.mp fits)
  rw [exec_eq_run, beginCommand, start, runCommand_ret]

end

/-- Settles O21, by whether the duration in ticks is a counter value. -/
theorem tstartResult : Obligations.TstartResult := by
  refine ⟨decodeWord_encode .tstart, fun s => ?_⟩
  dsimp only
  split
  next fits =>
    rw [exec_tstart_of_fits fits, tstartNow, deadline, ticksOf, State.now, State.advance_cfg]
    rfl
  next fits => exact exec_tstart_of_not_fits fits

/-- Settles O22, by whether both operands are counter values; the test is that of `expired_iff`. -/
theorem texpiredResult : Obligations.TexpiredResult := by
  refine ⟨decodeWord_encode .texpired, fun s => ?_⟩
  dsimp only
  split
  next fits =>
    rw [exec_texpired_of_fits fits, texpiredNow]
    simp only [expired_iff, BitVec.toNat_inj, State.now, State.advance_cfg]
    rfl
  next fits => exact exec_texpired_of_not_fits fits

end Sys2Proof.Machine
end

section
/-! The codec on words (41_codec.md R125 to R132): the header as an OR of fields, the bytes of a packed payload word,
and the counts of a ring. -/

namespace Sys2Proof.Machine

/-! ### The header -/

theorem encodeHeader_eq_fields (src dst : Byte) (len : BitVec 9) (mc : Bool) :
    encodeHeader src dst len mc = field 0 src ||| field 8 dst ||| field 16 len ||| field 31 (BitVec.ofBool mc) := by
  simp only [encodeHeader, field, BitVec.shiftLeft_zero]

theorem decodeHeader_encodeHeader (src dst : Byte) (len : BitVec 9) (mc : Bool) :
    decodeHeader (encodeHeader src dst len mc) = { src := src, dst := dst, len := len, rsv := 0, mc := mc } := by
  rw [encodeHeader_eq_fields, decodeHeader]
  simp (disch := omega) only [BitVec.extractLsb'_or, BitVec.getLsbD_or, extractLsb'_field_self,
    extractLsb'_field_beside, getLsbD_flag_self, getLsbD_field_beside, BitVec.zero_or, BitVec.or_zero,
    Bool.false_or, BitVec.ofNat_eq_ofNat]

/-- A bit range put back where it was taken is the word under the mask of the range. -/
theorem field_extractLsb' (w : Word) (o n : Nat) : field o (w.extractLsb' o n) = w &&& field o (BitVec.allOnes n) := by
  ext k hk
  by_cases below : k < o
  · simp [field, below]
  · have back : o + (k - o) = k := by omega
    simp [field, below, back, hk, Bool.and_comm]

theorem ofBool_getLsbD (w : Word) (o : Nat) : BitVec.ofBool (w.getLsbD o) = w.extractLsb' o 1 := by
  ext k hk
  obtain rfl : k = 0 := by omega
  simp

theorem encodeHeader_decodeHeader (w : Word) :
    encodeHeader (decodeHeader w).src (decodeHeader w).dst (decodeHeader w).len (decodeHeader w).mc =
      w &&& 0x81FFFFFF := by
  have masks : field 0 (BitVec.allOnes 8) ||| field 8 (BitVec.allOnes 8) ||| field 16 (BitVec.allOnes 9) |||
      field 31 (BitVec.allOnes 1) = 0x81FFFFFF := by decide
  simp only [encodeHeader_eq_fields, decodeHeader, ofBool_getLsbD, field_extractLsb', ← BitVec.and_or_distrib_left,
    masks]

/-- Settles O33: the fields are the definition's, and the two laws are those of the fields. -/
theorem headerLaws : Obligations.HeaderLaws :=
  ⟨fun _ => rfl, decodeHeader_encodeHeader, encodeHeader_decodeHeader⟩

/-! ### The payload words -/

/-- Byte `k` of a payload with its padding (41_codec.md R128). -/
def paddedByte (bytes : Nat → Byte) (off plen k : Nat) : Byte := if k < plen then bytes (off + k) else 0

theorem packByte_eq_field (bytes : Nat → Byte) (off plen i b : Nat) :
    packByte bytes off plen i b = field (8 * b) (paddedByte bytes off plen (4 * i + b)) := by
  unfold packByte paddedByte
  split
  · rw [Nat.add_assoc, field]
  · simp [field]

theorem unpackByte_or (v w : Word) (b : Nat) : unpackByte (v ||| w) b = unpackByte v b ||| unpackByte w b :=
  BitVec.extractLsb'_or

/-- Byte `b` of a word sees the byte field at `b` and no other. -/
theorem unpackByte_field {a : Nat} (x : Byte) (b : Nat) (ha : a < 4) :
    unpackByte (field (8 * a) x) b = if b = a then x else 0 := by
  unfold unpackByte
  split
  next same => rw [same, extractLsb'_field_self x (by omega)]
  next other => exact extractLsb'_field_beside x (by omega)

theorem unpackByte_packWord (bytes : Nat → Byte) (off plen i : Nat) {b : Nat} (hb : b < 4) :
    unpackByte (packWord bytes off plen i) b = paddedByte bytes off plen (4 * i + b) := by
  simp (disch := decide) only [packWord, packByte_eq_field, unpackByte_or, unpackByte_field]
  obtain rfl | rfl | rfl | rfl : b = 0 ∨ b = 1 ∨ b = 2 ∨ b = 3 := by omega
  all_goals simp

theorem unpackByte_packWord_div_mod (bytes : Nat → Byte) (off plen k : Nat) :
    unpackByte (packWord bytes off plen (k / 4)) (k % 4) = paddedByte bytes off plen k := by
  rw [unpackByte_packWord _ _ _ _ (Nat.mod_lt k (by decide)), Nat.div_add_mod]

/-- Settles O35: byte `k` lies in the packed word `k / 4` at the place `k % 4`. -/
theorem payloadPacking : Obligations.PayloadPacking := unpackByte_packWord_div_mod

/-! ### The counts of a ring -/

theorem filled_eq_emod (c : Csr) : (filled c : Int) = ((c.wp.toNat : Int) - c.rp.toNat) % 256 := by
  rw [filled, BitVec.toNat_sub]
  have hrp := c.rp.isLt
  omega

theorem overflows_iff (c : Csr) : overflows c = true ↔ c.depth.toNat < filled c := decide_eq_true_iff

theorem filled_le_depth {c : Csr} (h : overflows c = false) : filled c ≤ c.depth.toNat :=
  Nat.le_of_not_lt fun above => Bool.false_ne_true (h.symm.trans ((overflows_iff c).mpr above))

/-- Settles O36: without overflow the space is a subtraction that does not truncate. -/
theorem ringArithmetic : Obligations.RingArithmetic := fun c =>
  ⟨filled_eq_emod c, overflows_iff c, fun h => ⟨Nat.sub_le _ _, Nat.sub_add_cancel (filled_le_depth h)⟩⟩

end Sys2Proof.Machine
end

section
/-! The fragmentation plan (41_codec.md R134) as one map over the packet numbers, the empty message among them, and the
round trip of a message (R136): packet after packet, the decoder reads back what the encoder wrote. -/

namespace Sys2Proof.Machine

/-! ### The plan -/

/-- The number of packets of a plan, one for an empty message (41_codec.md R134). -/
def planCount (len maxpay : Nat) : Nat := if len = 0 then 1 else packetCount len maxpay

/-- Packet `i` of a plan (41_codec.md R134). -/
def planPacket (len maxpay i : Nat) : Packet where
  off := i * maxpay
  plen := min maxpay (len - i * maxpay)
  mc := decide (i + 1 = planCount len maxpay)

theorem plan_eq_map (len maxpay : Nat) :
    plan len maxpay = (List.range (planCount len maxpay)).map (planPacket len maxpay) := by
  unfold plan
  split
  next empty => simp [empty, planCount, planPacket]
  next nonempty =>
    have count : planCount len maxpay = packetCount len maxpay := if_neg nonempty
    simp only [count, planPacket, List.map_inj_left, implies_true]

/-- `ceil(len / maxpay)` counts the cut points below `len`. -/
theorem lt_packetCount_iff {len maxpay i : Nat} (h : 0 < maxpay) : i < packetCount len maxpay ↔ i * maxpay < len := by
  rw [packetCount, Nat.lt_iff_add_one_le, Nat.le_div_iff_mul_le h, Nat.succ_mul]
  omega

/-- The first packet is always there; each further one starts inside the message. -/
theorem lt_planCount_iff {len maxpay i : Nat} (h : 0 < maxpay) :
    i < planCount len maxpay ↔ i = 0 ∨ i * maxpay < len := by
  unfold planCount
  split
  next empty => omega
  next nonempty =>
    rw [lt_packetCount_iff h]
    refine ⟨.inr, ?_⟩
    rintro (rfl | inside)
    · omega
    · exact inside

theorem planCount_pos {len maxpay : Nat} (h : 0 < maxpay) : 0 < planCount len maxpay :=
  (lt_planCount_iff h).mpr (.inl rfl)

theorem le_planCount_mul {len maxpay : Nat} (h : 0 < maxpay) : len ≤ planCount len maxpay * maxpay :=
  Nat.le_of_not_lt fun inside => Nat.lt_irrefl _ ((lt_planCount_iff h).mpr (.inr inside))

/-- The payload bytes of a packet. -/
def packetPayload (bytes : Nat → Byte) (p : Packet) : List Byte := messageBytes (fun k => bytes (p.off + k)) p.plen

theorem messageBytes_add (bytes : Nat → Byte) (m n : Nat) :
    messageBytes bytes (m + n) = messageBytes bytes m ++ messageBytes (fun k => bytes (m + k)) n := by
  simp only [messageBytes, List.range_add, List.map_append, List.map_map, Function.comp_def]

/-- The payloads of the first `n` packets are the message's bytes up to the cut point `n * maxpay`, or to its end. -/
theorem flatMap_packetPayload_range (bytes : Nat → Byte) (len maxpay n : Nat) :
    ((List.range n).map (planPacket len maxpay)).flatMap (packetPayload bytes) =
      messageBytes bytes (min (n * maxpay) len) := by
  induction n with
  | zero => simp [messageBytes]
  | succ n ih =>
    rw [List.range_succ, List.map_append, List.flatMap_append, ih, List.map_singleton, List.flatMap_singleton]
    rcases Nat.le_total (n * maxpay) len with inside | past
    · have cut : min ((n + 1) * maxpay) len = n * maxpay + min maxpay (len - n * maxpay) := by
        rw [Nat.succ_mul]; omega
      rw [cut, Nat.min_eq_left inside, messageBytes_add]
      rfl
    · have empty : (planPacket len maxpay n).plen = 0 := by
        simp only [planPacket]; omega
      have cut : min ((n + 1) * maxpay) len = min (n * maxpay) len := by
        rw [Nat.succ_mul]; omega
      rw [cut, packetPayload, empty]
      simp [messageBytes]

theorem flatMap_packetPayload_plan (bytes : Nat → Byte) {len maxpay : Nat} (h : 0 < maxpay) :
    (plan len maxpay).flatMap (packetPayload bytes) = messageBytes bytes len := by
  rw [plan_eq_map, flatMap_packetPayload_range, Nat.min_eq_right (le_planCount_mul h)]

theorem length_packetPayload (bytes : Nat → Byte) (p : Packet) : (packetPayload bytes p).length = p.plen := by
  simp only [packetPayload, messageBytes, List.length_map, List.length_range]

/-- The payload lengths add up to the length of the message, since the payloads are its bytes. -/
theorem sum_plen_plan {len maxpay : Nat} (h : 0 < maxpay) : ((plan len maxpay).map Packet.plen).sum = len := by
  have total := congrArg List.length (flatMap_packetPayload_plan (fun _ => 0) (len := len) h)
  simpa only [List.length_flatMap, length_packetPayload, messageBytes, List.length_map, List.length_range] using total

/-- Settles O37, by the plan as a map over the packet numbers. -/
theorem planCuts : Obligations.PlanCuts := by
  intro len maxpay hpos
  have count : (plan len maxpay).length = planCount len maxpay := by
    rw [plan_eq_map, List.length_map, List.length_range]
  refine ⟨count, sum_plen_plan hpos, fun i hi => ?_⟩
  have packet : (plan len maxpay)[i] = planPacket len maxpay i := by
    simp only [plan_eq_map, List.getElem_map, List.getElem_range]
  rw [packet, count]
  refine ⟨rfl, rfl, decide_eq_true_iff, fun nonempty => ?_⟩
  have inside := (lt_planCount_iff hpos).mp (count ▸ hi)
  simp only [planPacket]
  rcases inside with rfl | inside <;> omega

/-! ### One packet -/

/-- The payload words of a packet unpack to its payload (41_codec.md R128, R129). -/
theorem unpackBytes_packWords (bytes : Nat → Byte) (off plen : Nat) :
    unpackBytes ((List.range (wordsOf plen)).map (packWord bytes off plen)) plen =
      messageBytes (fun k => bytes (off + k)) plen := by
  refine List.map_congr_left fun k hk => ?_
  have hlt : k < plen := List.mem_range.mp hk
  have hword : k / 4 < wordsOf plen := by unfold wordsOf; omega
  rw [List.getD_eq_getElem _ _ (by simpa using hword), List.getElem_map, List.getElem_range,
    unpackByte_packWord_div_mod, paddedByte, if_pos hlt]

/-- The header that the decoder reads from a packet's first word. -/
def packetHeader (src dst : Byte) (p : Packet) : Header where
  src := src
  dst := dst
  len := BitVec.ofNat 9 p.plen
  rsv := 0
  mc := p.mc

theorem packetHeader_len {src dst : Byte} {p : Packet} (h : p.plen ≤ 511) :
    (packetHeader src dst p).len.toNat = p.plen :=
  Nat.mod_eq_of_lt (by omega)

section
variable (src dst : Byte) (bytes : Nat → Byte)

/-- The decoder reads one packet whole, and stops or goes on by its completion flag. -/
theorem decodePackets_packetWords {p : Packet} (h : p.plen ≤ 511) (fuel : Nat) (rest : List Word) :
    decodePackets (fuel + 1) (packetWords src dst bytes p ++ rest) =
      if p.mc then some (packetPayload bytes p, packetHeader src dst p, rest)
      else (decodePackets fuel rest).map fun d => (packetPayload bytes p ++ d.1, d.2) := by
  have header : decodeHeader (encodeHeader src dst (BitVec.ofNat 9 p.plen) p.mc) = packetHeader src dst p :=
    decodeHeader_encodeHeader ..
  have words : ((List.range (wordsOf p.plen)).map (packWord bytes p.off p.plen)).length = wordsOf p.plen := by
    rw [List.length_map, List.length_range]
  have enough :
      ¬ ((List.range (wordsOf p.plen)).map (packWord bytes p.off p.plen) ++ rest).length < wordsOf p.plen := by
    rw [List.length_append, words]; omega
  rw [packetWords, List.cons_append, decodePackets]
  simp only [header, packetHeader_len h, if_neg enough, List.take_left' words, List.drop_left' words,
    unpackBytes_packWords]
  cases decodePackets fuel rest <;> rfl

/-- Packets with the flag off and a last one with it on decode to their payloads, one after another. -/
theorem decodePackets_flatMap {last : Packet} (hlast : last.plen ≤ 511) (hon : last.mc = true) (rest : List Word)
    {ps : List Packet} (hps : ∀ p ∈ ps, p.plen ≤ 511 ∧ p.mc = false) {fuel : Nat}
    (hfuel : ps.length < fuel) :
    decodePackets fuel ((ps ++ [last]).flatMap (packetWords src dst bytes) ++ rest) =
      some ((ps ++ [last]).flatMap (packetPayload bytes), packetHeader src dst last, rest) := by
  induction ps generalizing fuel with
  | nil =>
    obtain ⟨fuel, rfl⟩ := Nat.exists_eq_add_one_of_ne_zero (Nat.ne_zero_of_lt hfuel)
    rw [List.nil_append, List.flatMap_singleton, List.flatMap_singleton,
      decodePackets_packetWords src dst bytes hlast, if_pos hon]
  | cons p ps ih =>
    obtain ⟨fuel, rfl⟩ := Nat.exists_eq_add_one_of_ne_zero (Nat.ne_zero_of_lt hfuel)
    obtain ⟨⟨hp, hoff⟩, htail⟩ := List.forall_mem_cons.mp hps
    rw [List.cons_append, List.flatMap_cons, List.flatMap_cons, List.append_assoc,
      decodePackets_packetWords src dst bytes hp, if_neg (Bool.eq_false_iff.mp hoff),
      ih htail (Nat.lt_of_succ_lt_succ hfuel)]
    rfl

/-- A packet has at least its header word, so the words bound the packets. -/
theorem length_le_length_flatMap_packetWords (ps : List Packet) :
    ps.length ≤ (ps.flatMap (packetWords src dst bytes)).length := by
  induction ps with
  | nil => exact Nat.le_refl 0
  | cons p ps ih =>
    simp only [List.flatMap_cons, packetWords, List.length_append, List.length_cons]
    omega

end

/-! ### The whole message -/

/-- A plan is its packets before the last, their flags off, and the last, its flag on (41_codec.md R134). -/
theorem plan_eq_append_last {len maxpay : Nat} (h : 0 < maxpay) :
    ∃ ps last, plan len maxpay = ps ++ [last] ∧ (∀ p ∈ ps, p.mc = false) ∧ last.mc = true := by
  obtain ⟨n, count⟩ := Nat.exists_eq_add_one_of_ne_zero (Nat.ne_of_gt (planCount_pos (len := len) h))
  refine ⟨(List.range n).map (planPacket len maxpay), planPacket len maxpay n, ?_, fun p hp => ?_, ?_⟩
  · rw [plan_eq_map, count, List.range_succ, List.map_append, List.map_singleton]
  · obtain ⟨i, hi, rfl⟩ := List.mem_map.mp hp
    have before := List.mem_range.mp hi
    exact decide_eq_false (by omega)
  · exact decide_eq_true count.symm

/-- Settles O38: the packets of the plan decode one after another to their payloads, which are the message. -/
theorem messageRoundTrip : Obligations.MessageRoundTrip := by
  intro src dst bytes len maxpay rest hpos hmax
  obtain ⟨ps, last, hplan, hoff, hon⟩ := plan_eq_append_last (len := len) hpos
  have short : ∀ p ∈ ps ++ [last], p.plen ≤ 511 := fun p hp => (plen_le_of_mem_plan (hplan ▸ hp)).trans hmax
  have fuel : ps.length < (encodeMessage src dst bytes len maxpay ++ rest).length := by
    have packets := length_le_length_flatMap_packetWords src dst bytes (ps ++ [last])
    rw [encodeMessage, hplan]
    simp only [List.length_append, List.length_singleton] at packets ⊢
    omega
  refine ⟨packetHeader src dst last, ?_, rfl, rfl, hon⟩
  calc decodeMessage (encodeMessage src dst bytes len maxpay ++ rest)
      = decodePackets (encodeMessage src dst bytes len maxpay ++ rest).length
          ((ps ++ [last]).flatMap (packetWords src dst bytes) ++ rest) := by
        rw [decodeMessage, encodeMessage, hplan]
    _ = some ((ps ++ [last]).flatMap (packetPayload bytes), packetHeader src dst last, rest) :=
        decodePackets_flatMap src dst bytes (short last (by simp)) hon rest
          (fun p hp => ⟨short p (List.mem_append_left _ hp), hoff p hp⟩) fuel
    _ = some (messageBytes bytes len, packetHeader src dst last, rest) := by
        rw [← hplan, flatMap_packetPayload_plan bytes hpos]

end Sys2Proof.Machine
end

section
/-! The shared shape of a run (20_memory.md R61, 40_timer.md R116): what a poll can do, as a rule for any property, and
steps of the engine at a position the state is known to stand at. -/

namespace Sys2Proof.Machine

/-! ### Polls, for any property -/

section
variable {P : State → Prop} {s : State} {w : Wait} {x : Timer}

/-- A property holds after the look of a poll if it holds after each of its three answers; the only error is an
overflow. -/
theorem pollCond_holds (hwait : P (s.goto (.pollNow w x))) (hok : waitCond s w = .ok → P (waitEnd s .ok w))
    (herr : waitCond s w = .err .overflow → P (waitEnd s (.err .overflow) w)) : P (pollCond s w x) := by
  rcases pollCond_cases s w x with ⟨-, e⟩ | ⟨hc, e⟩ | ⟨c, hc, e⟩ <;> rw [e]
  · exact hwait
  · exact hok hc
  · obtain rfl := waitCond_err hc
    exact herr hc

/-- A property holds after the expiry test of a poll if it holds after each of its two answers. -/
theorem pollNow_holds (hlate : P (waitEnd s (.err .timeout) w)) (hagain : P (s.goto (.pollCond w x))) :
    P (pollNow s w x) := by
  rcases pollNow_cases s w x with ⟨-, e⟩ | ⟨-, e⟩ <;> rw [e]
  · exact hlate
  · exact hagain

end

end Sys2Proof.Machine
end

section
/-! The transitions of the link (42_cb_transport.md R153, 44_doorbell.md R203). A step of INIT or LRESET leaves the link
alone or brings it up and ends; a step of SEND or RECV leaves it alone or, on a circular link, takes it to `RESETTING`
and ends with `NOT_READY`. -/

namespace Sys2Proof.Machine

/-! ### INIT and LRESET -/

/-- A wait of LRESET (`reset` true) or of INIT (`reset` false). -/
def Wait.ofLink (reset : Bool) : Wait → Prop
  | .initReady => reset = false
  | .resetAccepted => reset = true
  | .resetReady => reset = true
  | .hsIdle x => x.reset = reset
  | .hsAck x => x.reset = reset
  | _ => False

/-- A position of LRESET (`reset` true) or of INIT (`reset` false). -/
def Pos.ofLink (reset : Bool) : Pos → Prop
  | .pollStart w => w.ofLink reset
  | .pollCond w _ => w.ofLink reset
  | .pollNow w _ => w.ofLink reset
  | .initWrite => reset = false
  | .lresetBegin => reset = true
  | .lresetEnd => reset = true
  | .hsClearIn x => x.reset = reset
  | .hsHostReady x => x.reset = reset
  | .hsRefclk x => x.reset = reset
  | .hsLoaded x => x.reset = reset
  | .hsReady x => x.reset = reset
  | .hsPayload x _ => x.reset = reset
  | .hsRing x => x.reset = reset
  | .hsAckClear x => x.reset = reset
  | _ => False

/-- What INIT and LRESET can have done to the link, from `u` to `t`: nothing so far, or brought it up and ended. -/
inductive LinkMove (reset : Bool) (u t : State) : Prop
  | stays (lstate : t.lstate = u.lstate) (resync : t.resync = u.resync)
      (pos : ∀ p, t.seq = .busy p → p.ofLink reset)
  | comesUp (lstate : t.lstate = .ready) (resync : t.resync = if reset then false else u.resync) (seq : t.seq = .idle)
      (result : t.result = ResultCode.success.code)

section
variable {reset : Bool} {u v : State} (hl : v.lstate = u.lstate) (hr : v.resync = u.resync)
include hl hr

theorem LinkMove.goto {p : Pos} (hp : p.ofLink reset) : LinkMove reset u (v.goto p) :=
  .stays hl hr fun _ hq => Seq.busy.inj hq ▸ hp

theorem LinkMove.poll {w : Wait} (hw : w.ofLink reset) : LinkMove reset u (v.poll w) := .goto hl hr hw

theorem LinkMove.ret (c : ResultCode) : LinkMove reset u (v.ret c) := .stays hl hr fun _ => nofun

theorem LinkMove.hsRound {x : HsCtx} (hx : x.reset = reset) : LinkMove reset u (hsRound v x) := by
  rcases hsRound_cases v x with e | ⟨-, e⟩ <;> rw [e]
  · exact .goto (v := v.emitWindow 0) hl hr hx
  · exact .goto hl hr hx

/-- The handshake brings the link up by the way of the command that runs it. -/
theorem LinkMove.hsAwait {x : HsCtx} (hx : x.reset = reset) : LinkMove reset u (hsAwait v x) := by
  unfold Machine.hsAwait hsRoundEnd
  split
  · split
    · exact .hsRound hl hr hx
    · rw [hx]
      cases reset with
      | true => exact .comesUp rfl rfl rfl rfl
      | false => exact .comesUp rfl hr rfl rfl
  · exact .poll hl hr hx

end

theorem LinkMove.waitEnd {reset : Bool} {w : Wait} (hw : w.ofLink reset) (u : State) (r : PollEnd) :
    LinkMove reset u (waitEnd u r w) := by
  cases w with
  | initReady => cases r with
    | ok => exact .goto rfl rfl hw
    | err e => exact .ret rfl rfl _
  | resetAccepted => cases r with
    | ok => exact .poll rfl rfl hw
    | err e => exact .ret rfl rfl _
  | resetReady => cases r with
    | ok => exact .goto rfl rfl hw
    | err e => exact .ret rfl rfl _
  | hsIdle x => cases r with
    | ok => exact .hsAwait (x := { x with acks := u.cfg.dbHsAcks }) rfl rfl hw
    | err e => exact .ret rfl rfl _
  | hsAck x => cases r with
    | ok =>
      show LinkMove reset u (hsAckEnd u x .ok)
      rcases hsAckEnd_ok_cases u x with e | e <;> rw [e]
      · exact .goto rfl rfl hw
      · exact .ret rfl rfl _
    | err e => exact .ret rfl rfl _
  | _ => exact hw.elim

/-- One atomic step of INIT or LRESET. -/
theorem engineAct_linkMove {reset : Bool} {u t : State} {p : Pos} (hp : p.ofLink reset)
    (ha : engineAct u p = .next t) : LinkMove reset u t := by
  cases p with
  | pollStart w => cases ha; exact .goto rfl rfl hp
  | pollCond w x =>
    cases ha
    exact pollCond_holds (.goto rfl rfl hp) (fun _ => .waitEnd hp u _) fun _ => .waitEnd hp u _
  | pollNow w x => cases ha; exact pollNow_holds (.waitEnd hp u _) (.goto rfl rfl hp)
  | initWrite => cases ha; cases hp; exact .comesUp rfl rfl rfl rfl
  | lresetBegin =>
    cases ha
    exact .poll (u := u) (v := u.writeHcsr (some true) none (some true)) (w := .resetAccepted) rfl rfl hp
  | lresetEnd => cases ha; cases hp; exact .comesUp rfl rfl rfl rfl
  | hsClearIn x => cases ha; exact .goto (u := u) (v := u.clearDbIn) (p := .hsHostReady x) rfl rfl hp
  | hsHostReady x => cases ha; exact .goto (u := u) (v := u.setComm true false false) (p := .hsRefclk x) rfl rfl hp
  | hsRefclk x => cases ha; exact .goto (u := u) (v := u.writeRefclk u.cfg.dbRefclk) (p := .hsLoaded x) rfl rfl hp
  | hsLoaded x => cases ha; exact .goto (u := u) (v := u.setComm false true false) (p := .hsReady x) rfl rfl hp
  | hsReady x => cases ha; exact .hsRound (u := u) (v := u.setComm false false true) rfl rfl hp
  | hsPayload x i =>
    simp only [engineAct, hsPayload] at ha
    rw [eq_of_outWrite_next ha]
    split <;> exact .stays rfl rfl fun _ hq => Seq.busy.inj hq ▸ hp
  | hsRing x =>
    cases ha
    exact .poll (u := u) (v := u.writeDbOut (Doorbell.ofWord u.cfg.dbHsDoorbell)) (w := .hsIdle x) rfl rfl hp
  | hsAckClear x => cases ha; exact .hsAwait (u := u) (v := u.clearDbIn) (x := { x with acks := x.acks - 1 }) rfl rfl hp
  | _ => exact hp.elim

/-- What a run of INIT or LRESET has done to the link since the state that it started in. -/
theorem runCommand_linkMove {reset : Bool} {s u t : State} (h : LinkMove reset s u) (hr : runCommand u = .next t) :
    LinkMove reset s t := by
  refine engineRun_induct (fun v p v' hq hv ha => ?_) h hr
  cases hv with
  | stays hl hy hpos =>
    cases engineAct_linkMove (hpos p hq) ha with
    | stays hl' hy' hpos' =>
      exact .stays (by rw [hl', State.advance_lstate, hl]) (by rw [hy', State.advance_resync, hy]) hpos'
    | comesUp hl' hy' hs' hc' =>
      exact .comesUp hl' (by rw [hy', State.advance_resync, hy]) hs' hc'
  | comesUp hl hy hs hc => rw [hs] at hq; cases hq

/-- An INIT that goes on at all starts with the link down. -/
theorem beginInit_linkMove (s : State) :
    (∃ c, beginInit s = s.ret c) ∨ (s.lstate = .uninit ∧ LinkMove false s (beginInit s)) := by
  unfold beginInit
  split
  · split
    · exact .inl ⟨_, rfl⟩
    · exact .inl ⟨_, rfl⟩
    · rename_i hdown
      split
      · exact .inr ⟨hdown, .poll rfl rfl rfl⟩
      · exact .inr ⟨hdown, .goto rfl rfl rfl⟩
  · exact .inl ⟨_, rfl⟩

theorem init_linkTransition {s t : State} (h : exec .init s = .next t) :
    t.lstate = s.lstate ∨
      s.lstate = .uninit ∧ t.lstate = .ready ∧ t.seq = .idle ∧ t.result = ResultCode.success.code := by
  rw [exec_eq_run] at h
  rcases beginInit_linkMove s with ⟨c, e⟩ | ⟨hdown, hbegin⟩
  · rw [beginCommand, e, runCommand_ret] at h
    cases h
    exact .inl rfl
  · cases runCommand_linkMove hbegin h with
    | stays hl hy hpos => exact .inl hl
    | comesUp hl hy hs hc => exact .inr ⟨hdown, hl, hs, hc⟩

/-- LRESET needs a present device and a link that has been up. -/
theorem beginLreset_of_not {s : State} (h : ¬ (s.cfg.devicePresent = true ∧ s.lstate ≠ .uninit)) :
    ∃ c, beginLreset s = s.ret c := by
  unfold beginLreset
  split
  · split
    · exact ⟨_, rfl⟩
    · exact absurd ⟨‹_›, ‹_›⟩ h
  · exact ⟨_, rfl⟩

theorem beginLreset_linkMove {s : State} (h : s.cfg.devicePresent = true ∧ s.lstate ≠ .uninit) :
    LinkMove true (s.setLink .resetting) (beginLreset s) := by
  unfold beginLreset
  rw [if_pos h.left, if_neg h.right]
  split
  · exact .goto rfl rfl rfl
  · exact .goto rfl rfl rfl

theorem lreset_linkTransition {s t : State} (h : exec .lreset s = .next t) :
    if s.cfg.devicePresent = true ∧ s.lstate ≠ .uninit then
      t.lstate = .resetting ∧ t.resync = s.resync ∨
        t.lstate = .ready ∧ t.resync = false ∧ t.seq = .idle ∧ t.result = ResultCode.success.code
    else t.lstate = s.lstate ∧ t.resync = s.resync := by
  rw [exec_eq_run] at h
  split
  next hgo =>
    cases runCommand_linkMove (beginLreset_linkMove hgo) h with
    | stays hl hy hpos => exact .inl ⟨hl, hy⟩
    | comesUp hl hy hs hc => exact .inr ⟨hl, hy, hs, hc⟩
  next hno =>
    obtain ⟨c, e⟩ := beginLreset_of_not hno
    rw [beginCommand, e, runCommand_ret] at h
    cases h
    exact ⟨rfl, rfl⟩

/-! ### SEND and RECV -/

/-- A position of SEND before its gate has let it pass. -/
def Pos.atGate : Pos → Prop
  | .gateA _ => True
  | .gateB _ _ => True
  | .gateGroup _ _ => True
  | .gateCommand _ _ _ => True
  | _ => False

/-- What SEND and RECV on a link of kind `k` can have done to `LSTATE`, from `u` to `t`: nothing so far, and past the
gate the link is `READY`; or, on a circular link that was `READY`, ended `NOT_READY`. -/
inductive TransferMove (k : TransportKind) (u t : State) : Prop
  | stays (lstate : t.lstate = u.lstate) (pos : ∀ p, t.seq = .busy p → p.atGate ∨ u.lstate = .ready)
  | aborts (kind : k = .circular) (ready : u.lstate = .ready) (lstate : t.lstate = .resetting)
      (resync : t.resync = true) (seq : t.seq = .idle) (result : t.result = ResultCode.notReady.code)

section
variable {k : TransportKind} {u v : State}

theorem TransferMove.ended (hl : v.lstate = u.lstate) (hs : v.seq = .idle) : TransferMove k u v :=
  .stays hl fun p hp => by rw [hs] at hp; cases hp

theorem TransferMove.onGate (hl : v.lstate = u.lstate) {p : Pos} (hp : p.atGate) : TransferMove k u (v.goto p) :=
  .stays hl fun _ hq => .inl (Seq.busy.inj hq ▸ hp)

/-- Only `NOT_READY` touches `LSTATE` (60_exceptions.md R223). -/
theorem TransferMove.fail (hl : v.lstate = u.lstate) {c : ResultCode} (hc : c ≠ .notReady) (moved : Bool) :
    TransferMove k u (v.fail c moved) :=
  .ended (by rw [State.fail_lstate, if_neg hc, hl]) rfl

theorem TransferMove.recvFail (hl : v.lstate = u.lstate) {c : ResultCode} (hc : c ≠ .notReady) (moved : Bool) :
    TransferMove k u (v.recvFail c moved) :=
  .fail (v := { v with res0 := 0 }) hl hc moved

/-- Past the gate, whatever leaves `LSTATE` alone is allowed. -/
theorem TransferMove.kept (hready : u.lstate = .ready) (hl : v.lstate = u.lstate) : TransferMove k u v :=
  .stays hl fun _ _ => .inr hready

end

/-- The end of the gate: the transfer begins only at `READY`. -/
theorem gateEnd_transferMove (k : TransportKind) (u : State) (g : GateCtx) (p : Path) (cat : Nat) :
    TransferMove k u (gateEnd u g p cat) := by
  unfold gateEnd
  split
  · split
    · rename_i hready
      refine .kept hready ?_
      unfold sendBegin
      split
      · rcases txSendBegin_cases u g.dst g.src g.len with e | ⟨c, e⟩ <;> rw [e] <;> rfl
      · split
        · rfl
        · rcases dbSendBegin_cases u g.dst g.src g.len with e | ⟨c, -, e⟩ <;> rw [e] <;> rfl
    · exact .ended rfl rfl
  · exact .ended rfl rfl

/-- The errors of a wait are `TIMEOUT` and `OVERFLOW`, so none of them is `NOT_READY`. -/
theorem waitEnd_err_transferMove {k : TransportKind} {u : State} {w : Wait}
    (ho : w.owner = .send ∨ w.owner = .recv) {c : ResultCode} (hc : c ≠ .notReady) :
    TransferMove k u (waitEnd u (.err c) w) := by
  cases w with
  | sendRoom x => exact .fail rfl hc _
  | recvHeader x =>
    show TransferMove k u (recvHeaderEnd u x (.err c))
    rcases recvHeaderEnd_err_cases u x c with e | e <;> rw [e]
    · exact .ended rfl rfl
    · exact .recvFail rfl hc _
  | recvWord x p => exact .recvFail rfl hc _
  | dbIdle x => exact .fail rfl (by decide) _
  | dbDone x => exact .fail rfl (by decide) _
  | dbAck x => exact .fail rfl (by decide) _
  | dbEvent x =>
    show TransferMove k u (dbEventEnd u x (.err c))
    rcases dbEventEnd_err_cases u x c with e | e <;> rw [e]
    · exact .ended rfl rfl
    · exact .recvFail rfl (by decide) _
  | initReady => rcases ho with ho | ho <;> cases ho
  | resetAccepted => rcases ho with ho | ho <;> cases ho
  | resetReady => rcases ho with ho | ho <;> cases ho
  | hsIdle x => rcases ho with ho | ho <;> cases ho
  | hsAck x => rcases ho with ho | ho <;> cases ho

section
variable {k : TransportKind} {u : State} (hready : u.lstate = .ready)
include hready

theorem waitEnd_ok_transferMove {w : Wait} (ho : w.owner = .send ∨ w.owner = .recv) :
    TransferMove k u (waitEnd u .ok w) := by
  cases w with
  | dbAck c =>
    show TransferMove k u (dbAckEnd u c .ok)
    rcases dbAckEnd_ok_cases u c with e | e <;> rw [e]
    · exact .kept hready rfl
    · exact .fail rfl (by decide) _
  | dbEvent c =>
    show TransferMove k u (dbEventEnd u c .ok)
    rcases dbEventEnd_ok_cases u c with e | e <;> rw [e]
    · exact .kept hready rfl
    · exact .recvFail rfl (by decide) _
  | initReady => rcases ho with ho | ho <;> cases ho
  | resetAccepted => rcases ho with ho | ho <;> cases ho
  | resetReady => rcases ho with ho | ho <;> cases ho
  | hsIdle x => rcases ho with ho | ho <;> cases ho
  | hsAck x => rcases ho with ho | ho <;> cases ho
  | _ => exact .kept hready rfl

theorem recvNextWord_transferMove (v : State) (hl : v.lstate = u.lstate) (c : RecvCtx) (p : RxPacket) :
    TransferMove k u (recvNextWord v c p) := by
  rcases recvNextWord_cases v c p with ⟨-, e⟩ | e <;> rw [e] <;> exact .kept hready hl

theorem recvNextByte_transferMove (v : State) (hl : v.lstate = u.lstate) (c : RecvCtx) (p : RxPacket) (w : Word)
    (b : Nat) : TransferMove k u (recvNextByte v c p w b) := by
  rcases recvNextByte_cases v c p w b with ⟨-, e⟩ | ⟨small, e⟩ <;> rw [e]
  · exact .kept hready hl
  · exact recvNextWord_transferMove hready v hl _ _

theorem dbInNextByte_transferMove (v : State) (hl : v.lstate = u.lstate) (c : RecvCtx) (hw : Word) (i : Nat) :
    TransferMove k u (dbInNextByte v c hw i) := by
  rcases dbInNextByte_cases v c hw i with ⟨-, -, e⟩ | ⟨small, e⟩ <;> rw [e] <;> exact .kept hready hl

theorem sendNextWord_transferMove (v : State) (hl : v.lstate = u.lstate) (c : SendCtx) (i : Nat) :
    TransferMove k u (sendNextWord v c i) := by
  rcases sendNextWord_cases v c i with ⟨-, e⟩ | e <;> rw [e] <;> exact .kept hready hl

theorem dbSendNext_transferMove (v : State) (hl : v.lstate = u.lstate) (c : SendCtx) :
    TransferMove k u (dbSendNext v c) := by
  rcases dbSendNext_cases v c with e | ⟨p, ps, -, e⟩ <;> rw [e] <;> exact .kept hready hl

theorem dbNextByte_transferMove (v : State) (hl : v.lstate = u.lstate) (c : SendCtx) (i : Nat) :
    TransferMove k u (dbNextByte v c i) := by
  rcases dbNextByte_cases v c i with ⟨-, e⟩ | e <;> rw [e] <;> exact .kept hready hl

/-- The ready check of a circular SEND is one of the two places where the link is found down. -/
theorem sendCheck_transferMove (hk : k = .circular) (c : SendCtx) : TransferMove k u (sendCheck u c) := by
  unfold sendCheck
  split
  · rcases txSendNext_cases u c with e | ⟨p, ps, -, e⟩ <;> rw [e] <;> exact .kept hready rfl
  · exact .aborts hk hready rfl (by simp) rfl rfl

/-- The ready check of a circular RECV is the other. -/
theorem recvCheck_transferMove (hk : k = .circular) (c : RecvCtx) (hw : Word) :
    TransferMove k u (recvCheck u c hw) := by
  rcases recvCheck_cases u c hw with e | e | e <;> rw [e]
  · exact .kept hready rfl
  · exact .kept hready rfl
  · exact .aborts hk hready rfl (by simp) rfl rfl

end

/-- One atomic step of SEND or RECV. -/
theorem engineAct_transferMove {k : TransportKind} {u t : State} {p : Pos} (hk : p.onKind k)
    (ho : p.owner = .send ∨ p.owner = .recv) (hp : p.atGate ∨ u.lstate = .ready) (ha : engineAct u p = .next t) :
    TransferMove k u t := by
  by_cases hg : p.atGate
  · cases p with
    | gateA g => cases ha; exact .onGate rfl trivial
    | gateB g a =>
      cases ha
      unfold gateB
      dsimp only
      split
      · exact .onGate rfl trivial
      · exact gateEnd_transferMove k u g _ _
    | gateGroup g x => cases ha; exact .onGate rfl trivial
    | gateCommand g x group => cases ha; exact gateEnd_transferMove k u g _ _
    | _ => exact hg.elim
  have hready := hp.resolve_left hg
  cases p with
  | gateA g => exact absurd trivial hg
  | gateB g a => exact absurd trivial hg
  | gateGroup g x => exact absurd trivial hg
  | gateCommand g x group => exact absurd trivial hg
  | pollStart w => cases ha; exact .kept hready rfl
  | pollCond w x =>
    cases ha
    exact pollCond_holds (.kept hready rfl) (fun _ => waitEnd_ok_transferMove hready ho)
      fun _ => waitEnd_err_transferMove ho (by decide)
  | pollNow w x =>
    cases ha
    exact pollNow_holds (waitEnd_err_transferMove ho (by decide)) (.kept hready rfl)
  | sendHeader c => cases ha; exact sendNextWord_transferMove hready (u.txPush _) rfl _ _
  | sendByte c i b acc =>
    cases ha
    obtain ⟨acc', e | e⟩ := sendByte_cases u c i b acc <;> rw [e] <;> exact .kept hready rfl
  | sendWord c i w => cases ha; exact sendNextWord_transferMove hready (u.txPush w) rfl _ _
  | sendNotify c => cases ha; exact .kept hready rfl
  | sendCheck c => cases ha; exact sendCheck_transferMove hready hk c
  | recvPopHeader c => cases ha; exact recvNextWord_transferMove hready u.rxPop rfl _ _
  | recvPopWord c x => cases ha; exact recvNextByte_transferMove hready u.rxPop rfl _ _ _ _
  | recvByte c x w b => cases ha; exact recvNextByte_transferMove hready (u.msgWrite _ _) rfl _ _ _ _
  | recvCheck c hw => cases ha; exact recvCheck_transferMove hready hk c hw
  | dbHeader c i =>
    simp only [engineAct, dbHeader] at ha
    rw [eq_of_outWrite_next ha]
    split
    · exact .kept hready rfl
    · exact dbNextByte_transferMove hready _ (by rfl) c 0
  | dbRead c i => cases ha; exact .kept hready rfl
  | dbWrite c i x =>
    simp only [engineAct, dbWrite] at ha
    rw [eq_of_outWrite_next ha]
    exact dbNextByte_transferMove hready _ (by rfl) c _
  | dbRing c =>
    cases ha
    unfold dbRing
    dsimp only
    split
    · exact .kept hready rfl
    · exact dbSendNext_transferMove hready (u.writeDbOut _) rfl _
  | dbAckClear c => cases ha; exact dbSendNext_transferMove hready u.clearDbIn rfl _
  | dbInHeader c d i acc =>
    simp only [engineAct, dbInHeader] at ha
    rw [eq_of_inRead_next ha]
    split
    · exact .kept hready rfl
    · rcases dbInCheck_cases u c d (gatherHeader acc i (memRead u.inMsg i)) with ⟨-, e⟩ | e <;> rw [e]
      · exact dbInNextByte_transferMove hready u rfl _ _ _
      · exact .recvFail rfl (by decide) _
  | dbInRead c hw i =>
    simp only [engineAct, dbInRead] at ha
    rw [eq_of_inRead_next ha]
    exact .kept hready rfl
  | dbInWrite c hw i x => cases ha; exact dbInNextByte_transferMove hready (u.msgWrite _ _) rfl _ _ _
  | dbInClear c hw =>
    cases ha
    obtain ⟨c', -, e | e⟩ := dbInClear_cases u c hw <;> rw [e] <;> exact .kept hready rfl
  | _ => rcases ho with ho | ho <;> cases ho

/-- SEND starts at its gate, RECV only at `READY`. -/
theorem beginCommand_transferMove {i : Instr} (hi : commandOwner i = .send ∨ commandOwner i = .recv) (s : State) :
    TransferMove s.cfg.kind s (beginCommand i s) := by
  cases i with
  | send a b =>
    show TransferMove s.cfg.kind s (beginSend a b s)
    unfold beginSend
    split
    · exact .onGate rfl trivial
    · exact .ended rfl rfl
  | recv blk =>
    show TransferMove s.cfg.kind s (beginRecv blk s)
    unfold beginRecv
    split
    · split
      · split <;> exact .kept ‹_› rfl
      · exact .ended rfl rfl
    · exact .ended rfl rfl
  | _ => rcases hi with hi | hi <;> cases hi

/-- What a SEND or RECV has done to `LSTATE`, along its run; the kind of the link decides the positions it passes. -/
theorem exec_transferMove {i : Instr} {s t : State} (hi : commandOwner i = .send ∨ commandOwner i = .recv)
    (h : exec i s = .next t) : TransferMove s.cfg.kind s t := by
  rw [exec_eq_run] at h
  have hend : CommandRun (commandOwner i) s t ∧ TransferMove s.cfg.kind s t := by
    refine engineRun_induct (P := fun u => CommandRun (commandOwner i) s u ∧ TransferMove s.cfg.kind s u)
      (fun u p v hq hu ha => ⟨hu.left.engine hq ha, ?_⟩)
      ⟨beginCommand_run i s, beginCommand_transferMove hi s⟩ h
    obtain ⟨hrun, hmove⟩ := hu
    cases hmove with
    | stays hl hpos =>
      have hl' : u.advance.lstate = s.lstate := by rw [State.advance_lstate, hl]
      have hgate : p.atGate ∨ u.advance.lstate = .ready := (hpos p hq).imp_right hl'.trans
      have hown : p.owner = .send ∨ p.owner = .recv := by rw [hrun.pos p hq]; exact hi
      cases engineAct_transferMove (hrun.link.pos p hq) hown hgate ha with
      | stays hl'' hpos'' => exact .stays (hl''.trans hl') fun q hbusy => (hpos'' q hbusy).imp_right hl'.symm.trans
      | aborts hkind hready hdown hresync hidle hcode =>
        exact .aborts hkind (hl'.symm.trans hready) hdown hresync hidle hcode
    | aborts hkind hready hdown hresync hidle hcode => rw [hidle] at hq; cases hq
  exact hend.right

theorem transfer_linkTransition {i : Instr} {s t : State} (hi : commandOwner i = .send ∨ commandOwner i = .recv)
    (h : exec i s = .next t) :
    t.lstate = s.lstate ∨
      s.cfg.kind = .circular ∧ s.lstate = .ready ∧ t.lstate = .resetting ∧ t.resync = true ∧ t.seq = .idle ∧
        t.result = ResultCode.notReady.code := by
  cases exec_transferMove hi h with
  | stays hl hpos => exact .inl hl
  | aborts hkind hready hdown hresync hidle hcode => exact .inr ⟨hkind, hready, hdown, hresync, hidle, hcode⟩

/-- Settles O15, command by command; the timer and the queries by their frame. The premise of R246 is not needed. -/
theorem linkTransitions : Obligations.LinkTransitions := by
  intro i s t _ h
  have frame (ho : commandOwner i = .timer ∨ commandOwner i = .query) :
      t.lstate = s.lstate ∧ t.resync = s.resync := by
    obtain ⟨hl, hr, -⟩ := (exec_commandRun h).port.link ho
    exact ⟨hl, hr⟩
  cases i with
  | init => exact init_linkTransition h
  | lreset => exact lreset_linkTransition h
  | send a b => exact transfer_linkTransition (.inl rfl) h
  | recv blk => exact transfer_linkTransition (.inr rfl) h
  | tstart => exact frame (.inl rfl)
  | texpired => exact frame (.inl rfl)
  | classify => exact frame (.inr rfl)
  | hidemask => exact frame (.inr rfl)
  | allowmask => exact frame (.inr rfl)

end Sys2Proof.Machine
end

section
/-! What a circular SEND pushes (42_cb_transport.md R143, R144). At every position the words already pushed, followed by
those that the position still has to push, are the encoded message; no move of the environment touches either. -/

namespace Sys2Proof.Machine

/-! ### Readings of a grown trace -/

theorem pushes_append (es fs : List Event) : pushes (es ++ fs) = pushes es ++ pushes fs := List.filterMap_append

theorem pops_append (es fs : List Event) : pops (es ++ fs) = pops es ++ pops fs := List.filterMap_append

/-- What `PackWord` adds from byte `b` on, as the engine reads it: padding is not read (41_codec.md R128). -/
def packFrom (bytes : Nat → Byte) (off plen i b : Nat) : Word :=
  packByte bytes off plen i b |||
    if _h : b < 3 ∧ 4 * i + (b + 1) < plen then packFrom bytes off plen i (b + 1) else 0
termination_by 3 - b

theorem packByte_padding {bytes : Nat → Byte} {off plen i b : Nat} (h : plen ≤ 4 * i + b) :
    packByte bytes off plen i b = 0 :=
  if_neg (Nat.not_lt.mpr h)

theorem word_or_zero (w : Word) : w ||| 0 = w := BitVec.or_zero

/-- From the first byte of padding on nothing is read. -/
theorem packFrom_padding {bytes : Nat → Byte} {off plen i b : Nat} (h : plen ≤ 4 * i + b) :
    packFrom bytes off plen i b = 0 := by
  rw [packFrom, packByte_padding h, dif_neg (by omega), word_or_zero]

theorem packFrom_of_lt (bytes : Nat → Byte) (off plen i : Nat) {b : Nat} (hb : b < 3) :
    packFrom bytes off plen i b = packByte bytes off plen i b ||| packFrom bytes off plen i (b + 1) := by
  by_cases h : 4 * i + (b + 1) < plen
  · rw [packFrom, dif_pos ⟨hb, h⟩]
  · rw [packFrom, dif_neg (fun more => h more.right), packFrom_padding (Nat.le_of_not_lt h)]

/-- The bytes not read are padding, so the word gathered is the whole one. -/
theorem packFrom_zero (bytes : Nat → Byte) (off plen i : Nat) :
    packFrom bytes off plen i 0 = packWord bytes off plen i := by
  have last : packFrom bytes off plen i 3 = packByte bytes off plen i 3 := by
    rw [packFrom, dif_neg (by omega), word_or_zero]
  simp only [packFrom_of_lt, Nat.lt_add_one, Nat.reduceLT, Nat.reduceAdd, last, packWord, BitVec.or_assoc]

theorem word_zero_or (w : Word) : 0 ||| w = w := BitVec.zero_or

/-! ### The words that a position still has to push -/

section
variable (bytes : Nat → Byte)

/-- The payload words of the packet in hand from word `i` on. -/
def SendCtx.payloadFrom (c : SendCtx) (i : Nat) : List Word :=
  ((List.range (wordsOf c.cur.plen)).map (packWord bytes c.cur.off c.cur.plen)).drop i

/-- The words of the packets after the one in hand. -/
def SendCtx.later (c : SendCtx) : List (List Word) := c.rest.map (packetWords c.src c.dst bytes)

/-- The words of the packet in hand and of the packets after it. -/
def SendCtx.unsent (c : SendCtx) : List (List Word) := packetWords c.src c.dst bytes c.cur :: c.later bytes

/-- The words that a wait of a circular transfer has before it; no other wait has any. -/
def Wait.unsent : Wait → Option (List (List Word))
  | .sendRoom c => some (c.unsent bytes)
  | _ => none

/-- The words that a position of a circular transfer still has to push, packet by packet; each packet in the list is
still to be notified too. The other positions belong to no such transfer. -/
def Pos.unsent : Pos → Option (List (List Word))
  | .pollStart w => w.unsent bytes
  | .pollCond w _ => w.unsent bytes
  | .pollNow w _ => w.unsent bytes
  | .sendHeader c => some (c.unsent bytes)
  | .sendByte c i b acc =>
    some (((acc ||| packFrom bytes c.cur.off c.cur.plen i b) :: c.payloadFrom bytes (i + 1)) :: c.later bytes)
  | .sendWord c i w => some ((w :: c.payloadFrom bytes (i + 1)) :: c.later bytes)
  | .sendNotify c => some ([] :: c.later bytes)
  | .sendCheck c => some (c.later bytes)
  | _ => none

theorem Wait.eq_of_unsent {w : Wait} {left : List (List Word)} (h : w.unsent bytes = some left) :
    ∃ c, w = .sendRoom c ∧ left = c.unsent bytes := by
  cases w with
  | sendRoom c => exact ⟨c, rfl, (Option.some.inj h).symm⟩
  | _ => cases h

variable {c : SendCtx} {i : Nat}

theorem SendCtx.payloadFrom_of_lt (h : i < wordsOf c.cur.plen) :
    c.payloadFrom bytes i = packFrom bytes c.cur.off c.cur.plen i 0 :: c.payloadFrom bytes (i + 1) := by
  have inside : i < ((List.range (wordsOf c.cur.plen)).map (packWord bytes c.cur.off c.cur.plen)).length := by
    simpa using h
  rw [SendCtx.payloadFrom, List.drop_eq_getElem_cons inside, List.getElem_map, List.getElem_range, packFrom_zero]
  rfl

theorem SendCtx.payloadFrom_of_le (h : wordsOf c.cur.plen ≤ i) : c.payloadFrom bytes i = [] :=
  List.drop_eq_nil_of_le (by simpa using h)

end

/-! ### One step of a circular transfer -/

/-- How far inside the work on one word a position stands: with five for each word unsent, a bound on the steps to
come. -/
def Pos.phase : Pos → Nat
  | .pollStart _ => 2
  | .pollCond _ _ => 1
  | .pollNow _ _ => 2
  | .sendByte _ _ b _ => 3 - b + 1
  | .sendNotify _ => 4
  | .sendCheck _ => 3
  | _ => 0

/-- A position between the wait for room of a packet and its notification. -/
def Pos.pushing : Pos → Bool
  | .sendHeader _ => true
  | .sendByte _ _ _ _ => true
  | .sendWord _ _ _ => true
  | .sendNotify _ => true
  | _ => false

/-- What a step of a transfer does to the link, from `u` with the words `left` unsent: a look, a push, or a
notification. -/
inductive SendAccess (u : State) : List (List Word) → State → List (List Word) → Prop
  | look (left : List (List Word)) : SendAccess u left u left
  | push (w : Word) (ws : List Word) (later : List (List Word)) :
    SendAccess u ((w :: ws) :: later) (u.txPush w) (ws :: later)
  | notify (later : List (List Word)) :
    SendAccess u ([] :: later) (u.writeHcsr none none (some true)) later

/-- Everything one step of a circular transfer at `p` can do: go on, wait on, end well with nothing left, or fail for
one of three causes. -/
inductive SendStep (bytes : Nat → Byte) (u : State) (p : Pos) (left : List (List Word)) (t : State) : Prop
  | goesOn (v : State) (left' : List (List Word)) (q : Pos) (access : SendAccess u left v left') (next : t = v.goto q)
      (unsent : q.unsent bytes = some left')
      (progress : 5 * left'.flatten.length + q.phase < 5 * left.flatten.length + p.phase)
      (pushes : left'.flatten ≠ left.flatten → p.pushing = true)
      (room : q.pushing = true →
        p.pushing = true ∧ v.txring.length + left'.headI.length = u.txring.length + left.headI.length ∨
          txSpaceCond u left.headI.length = .ok ∧ v = u ∧ left' = left)
      (looks : ∀ w x, q ≠ .pollNow w x)
  | waits (w : Wait) (x : Timer) (position : p = .pollCond w x) (full : txSpaceCond u left.headI.length = .wait)
      (next : t = u.goto (.pollNow w x)) (unsent : w.unsent bytes = some left)
  | succeeds (none : left = []) (next : t = u.ret .success)
  | fails (c : ResultCode) (moved : Bool) (next : t = u.fail c moved)
      (cause : c = .timeout ∧ (∃ w x, p = .pollNow w x) ∨ c = .overflow ∧ overflows u.hcsr = true ∨
        c = .notReady ∧ u.ccsr.rdy = false)

theorem length_packetWords (src dst : Byte) (bytes : Nat → Byte) (p : Packet) :
    (packetWords src dst bytes p).length = packetNeed p := by
  simp [packetWords, packetNeed]

theorem txSpaceCond_of_err {u : State} {need : Nat} {c : ResultCode} (h : txSpaceCond u need = .err c) :
    c = .overflow ∧ overflows u.hcsr = true := by
  unfold txSpaceCond at h
  split at h
  · cases h; exact ⟨rfl, ‹_›⟩
  · split at h <;> cases h

section
variable {bytes : Nat → Byte} {u : State}

/-- After a push: the next payload word, or the notification. -/
theorem sendNextWord_sendStep {p : Pos} (hp : p.pushing = true) {c : SendCtx} {i : Nat} {w : Word} :
    SendStep bytes u p ((w :: c.payloadFrom bytes i) :: c.later bytes) (sendNextWord (u.txPush w) c i) := by
  have room : (u.txPush w).txring.length + (c.payloadFrom bytes i).length =
      u.txring.length + (w :: c.payloadFrom bytes i).length := by
    rw [State.txPush_txring, List.length_append, List.length_singleton, List.length_cons]
    omega
  unfold sendNextWord
  split
  next more =>
    refine .goesOn _ (c.payloadFrom bytes i :: c.later bytes) _ (.push _ _ _) rfl ?_ ?_ (fun _ => hp)
      (fun _ => .inl ⟨hp, room⟩) nofun
    · rw [Pos.unsent, word_zero_or, SendCtx.payloadFrom_of_lt bytes more]
    · simp only [List.flatten_cons, List.length_append, List.length_cons, Pos.phase]; omega
  next last =>
    have none := SendCtx.payloadFrom_of_le bytes (Nat.le_of_not_lt last)
    refine .goesOn _ (c.payloadFrom bytes i :: c.later bytes) _ (.push _ _ _) rfl ?_ ?_ (fun _ => hp)
      (fun _ => .inl ⟨hp, room⟩) nofun
    · rw [Pos.unsent, none]
    · simp only [List.flatten_cons, List.length_append, List.length_cons, Pos.phase]; omega

theorem sendByte_sendStep (hmsg : memRead u.msgbuf = bytes) {c : SendCtx} {i b : Nat} {acc : Word}
    {left : List (List Word)} (hp : Pos.unsent bytes (.sendByte c i b acc) = some left) :
    SendStep bytes u (.sendByte c i b acc) left (sendByte u c i b acc) := by
  rw [Pos.unsent, packFrom, ← BitVec.or_assoc, ← hmsg] at hp
  subst hmsg
  unfold sendByte
  dsimp only
  split
  next more =>
    rw [dif_pos more] at hp
    refine .goesOn u left _ (.look _) rfl hp ?_ (absurd rfl) (fun _ => .inl ⟨rfl, rfl⟩) nofun
    simp only [Pos.phase]; omega
  next last =>
    rw [dif_neg last, word_or_zero] at hp
    refine .goesOn u left _ (.look _) rfl hp ?_ (absurd rfl) (fun _ => .inl ⟨rfl, rfl⟩) nofun
    simp only [Pos.phase]; omega

theorem sendCheck_sendStep {c : SendCtx} : SendStep bytes u (.sendCheck c) (c.later bytes) (sendCheck u c) := by
  unfold sendCheck txSendNext
  split
  · split
    next hrest => exact .succeeds (by rw [SendCtx.later, hrest]; rfl) rfl
    next p ps hrest =>
      refine .goesOn u (c.later bytes) _ (.look _) rfl ?_ ?_ (absurd rfl) nofun nofun
      · rw [SendCtx.later, hrest]; rfl
      · simp only [Pos.phase]; omega
  next down => exact .fails _ _ rfl (.inr (.inr ⟨rfl, Bool.eq_false_iff.mpr down⟩))

/-- One atomic step of a circular transfer. -/
theorem engineAct_sendStep (hmsg : memRead u.msgbuf = bytes) {p : Pos} {left : List (List Word)}
    (hp : p.unsent bytes = some left) : ∃ t, engineAct u p = .next t ∧ SendStep bytes u p left t := by
  have look {q : Pos} (hq : q.unsent bytes = some left) (hphase : q.phase < p.phase)
      (hroom : q.pushing = true → txSpaceCond u left.headI.length = .ok) (hlooks : ∀ w x, q ≠ .pollNow w x) :
      SendStep bytes u p left (u.goto q) :=
    .goesOn u left q (.look left) rfl hq (Nat.add_lt_add_left hphase _) (absurd rfl)
      (fun h => .inr ⟨hroom h, rfl, rfl⟩) hlooks
  cases p with
  | pollStart w => exact ⟨_, rfl, look hp (by simp only [Pos.phase]; omega) nofun nofun⟩
  | pollCond w x =>
    refine ⟨_, rfl, ?_⟩
    obtain ⟨c, rfl, hleft⟩ := Wait.eq_of_unsent bytes hp
    have need : left.headI.length = packetNeed c.cur := by rw [hleft]; exact length_packetWords _ _ _ _
    rcases pollCond_cases u (.sendRoom c) x with ⟨full, e⟩ | ⟨free, e⟩ | ⟨_, above, e⟩ <;> rw [e]
    · exact .waits _ x rfl (need ▸ full) rfl hp
    · exact look (q := .sendHeader c) hp (by simp only [Pos.phase]; omega) (fun _ => need ▸ free) nofun
    · obtain ⟨rfl, hover⟩ := txSpaceCond_of_err above
      exact .fails _ _ rfl (.inr (.inl ⟨rfl, hover⟩))
  | pollNow w x =>
    refine ⟨_, rfl, ?_⟩
    obtain ⟨c, rfl, -⟩ := Wait.eq_of_unsent bytes hp
    rcases pollNow_cases u (.sendRoom c) x with ⟨-, e⟩ | ⟨-, e⟩ <;> rw [e]
    · exact .fails _ _ rfl (.inl ⟨rfl, _, _, rfl⟩)
    · exact look (q := .pollCond (.sendRoom c) x) hp (by simp only [Pos.phase]; omega) nofun nofun
  | sendHeader c =>
    cases hp
    exact ⟨_, rfl, sendNextWord_sendStep (c := { c with moved := true }) (i := 0)
      (w := encodeHeader c.src c.dst (BitVec.ofNat 9 c.cur.plen) c.cur.mc) rfl⟩
  | sendByte c i b acc => exact ⟨_, rfl, sendByte_sendStep hmsg hp⟩
  | sendWord c i w =>
    cases hp
    exact ⟨_, rfl, sendNextWord_sendStep (c := { c with moved := true }) rfl⟩
  | sendNotify c =>
    cases hp
    refine ⟨_, rfl, .goesOn _ (c.later bytes) _ (.notify _) rfl rfl ?_ (absurd rfl) nofun nofun⟩
    simp only [Pos.phase, List.flatten_cons, List.nil_append]; omega
  | sendCheck c => cases hp; exact ⟨_, rfl, sendCheck_sendStep⟩
  | _ => cases hp

end

/-! ### From the start of a SEND to its transfer -/

/-- A step from a position that is no expiry test. -/
theorem Reaches.at_goto {s t : State} {p : Pos} (hp : ∀ w x, p ≠ .pollNow w x)
    (ha : engineAct (s.advance.goto p) p = .next t) : Reaches 1 (s.goto p) t :=
  .one rfl (spins_eq_false hp) (s.advance_goto p ▸ ha)

/-- A SEND comes to the end of its gate (43_trust.md R179): two register reads, and two byte reads for a message of 2
bytes or more. -/
theorem reaches_gateEnd (a b : Byte) {s : State} (hd : s.cfg.devicePresent = true) :
    ∃ k, k ≤ 4 ∧ Reaches k (beginSend a b s)
      (gateEnd s.afterGate { dst := a, src := b, len := s.arg0.toNat } s.gatePath s.gateCategory) ∧
      s.afterGate.env = s.env.drop k := by
  have start : beginSend a b s = s.goto (.gateA { dst := a, src := b, len := s.arg0.toNat }) := if_pos hd
  have readA : Reaches 1 (beginSend a b s)
      (s.advance.goto (.gateB { dst := a, src := b, len := s.arg0.toNat } s.advance.stsA)) :=
    start ▸ .at_goto nofun rfl
  by_cases h2 : 2 ≤ s.arg0.toNat
  · refine ⟨4, Nat.le_refl 4, ?_, ?_⟩
    · have readB : Reaches 1 (s.advance.goto (.gateB { dst := a, src := b, len := s.arg0.toNat } s.advance.stsA))
          (s.advance.advance.goto (.gateGroup { dst := a, src := b, len := s.arg0.toNat } s.gatePath)) := by
        refine .at_goto nofun ?_
        simp only [engineAct, gateB, if_pos h2, State.gatePath, State.goto_cfg, State.goto_stsB, State.advance_cfg]
        rfl
      have readGroup : Reaches 1
          (s.advance.advance.goto (.gateGroup { dst := a, src := b, len := s.arg0.toNat } s.gatePath))
          (s.advance.advance.advance.goto (.gateCommand { dst := a, src := b, len := s.arg0.toNat } s.gatePath
            (memRead s.msgbuf 0))) := by
        refine .at_goto nofun ?_
        simp only [engineAct, gateGroup, cmdHeaderGroup, State.goto_msgbuf, State.advance_msgbuf]
        rfl
      refine readA.trans (readB.trans (readGroup.trans (.at_goto nofun ?_)))
      simp only [engineAct, gateCommand, cmdHeaderCommand, State.afterGate, State.gateCategory, if_pos h2,
        State.goto_cfg, State.goto_msgbuf, State.advance_msgbuf, State.advance_cfg]
      rfl
    · simp only [State.afterGate, if_pos h2, State.advance_env, ← List.drop_one, List.drop_drop]
  · refine ⟨2, by decide, readA.trans (.at_goto nofun ?_), ?_⟩
    · simp only [engineAct, gateB, if_neg h2, State.gatePath, State.afterGate, State.gateCategory, catOther,
        State.goto_cfg, State.goto_stsB, State.advance_cfg]
      rfl
    · simp only [State.afterGate, if_neg h2, State.advance_env, ← List.drop_one, List.drop_drop]

/-- The gate only reads: whatever no move of the environment touches is after it as before. -/
theorem afterGate_induct {P : State → Prop} (hP : ∀ u : State, P u → P u.advance) {s : State} (h : P s) :
    P s.afterGate := by
  unfold State.afterGate
  split
  · exact hP _ (hP _ (hP _ (hP _ h)))
  · exact hP _ (hP _ h)

/-- What the gate leaves alone of the state that a transfer uses. -/
structure GateKept (s u : State) : Prop where
  cfg : u.cfg = s.cfg
  trace : u.trace = s.trace
  msgbuf : u.msgbuf = s.msgbuf
  lstate : u.lstate = s.lstate
  resync : u.resync = s.resync

theorem afterGate_kept (s : State) : GateKept s s.afterGate := by
  refine afterGate_induct (P := GateKept s) (fun u h => ?_) ⟨rfl, rfl, rfl, rfl, rfl⟩
  exact ⟨u.advance_cfg.trans h.cfg, u.advance_trace.trans h.trace, u.advance_msgbuf.trans h.msgbuf,
    u.advance_lstate.trans h.lstate, u.advance_resync.trans h.resync⟩

/-- The verdict of the gate on a circular link. -/
theorem gateEnd_afterGate {s : State} (hk : s.cfg.kind = .circular) (a b : Byte) (len : Nat) :
    gateEnd s.afterGate { dst := a, src := b, len := len } s.gatePath s.gateCategory =
      if s.gatePasses then
        if s.lstate = .ready then txSendBegin s.afterGate a b len else s.afterGate.ret .notReady
      else s.afterGate.ret .unsupported := by
  have kept := afterGate_kept s
  simp only [gateEnd, sendBegin, gateAllows, kept.cfg, kept.lstate, hk, State.gatePasses]
  rfl

/-! ### A SEND that is on its way to pushing `goal` -/

/-- The words pushed and those still to be pushed are `goal`; all of it has been pushed where the SEND ends well. -/
structure Sending (m : Memory) (goal : List Word) (u : State) : Prop where
  msgbuf : u.msgbuf = m
  busy : ∀ p, u.seq = .busy p → ∃ left, p.unsent (memRead m) = some left ∧ pushes u.trace ++ left.flatten = goal
  ended : u.seq = .idle → u.result = ResultCode.success.code → pushes u.trace = goal

/-- The codes in the order of their numbers (60_exceptions.md R215). -/
def resultCodes : List ResultCode :=
  [.success, .deviceNotPresent, .notReady, .timeout, .bufferTooSmall, .noData, .protocolError, .unsupported, .overflow]

theorem getElem?_resultCodes (c : ResultCode) : resultCodes[c.code.toNat]? = some c := by cases c <;> rfl

/-- The number says which code it is. -/
theorem ResultCode.code_injective {c d : ResultCode} (h : c.code = d.code) : c = d :=
  Option.some.inj ((getElem?_resultCodes c).symm.trans (h ▸ getElem?_resultCodes d))

section
variable {m : Memory} {goal : List Word} {u : State}

theorem Sending.goto (hm : u.msgbuf = m) {p : Pos} {left : List (List Word)} (hp : p.unsent (memRead m) = some left)
    (h : pushes u.trace ++ left.flatten = goal) : Sending m goal (u.goto p) :=
  ⟨hm, fun _ hq => ⟨left, Seq.busy.inj hq ▸ hp, h⟩, nofun⟩

/-- A SEND that ends with another code promises nothing. -/
theorem Sending.ret (hm : u.msgbuf = m) {c : ResultCode} (hc : c ≠ .success) : Sending m goal (u.ret c) :=
  ⟨hm, fun _ => nofun, fun _ h => absurd (ResultCode.code_injective h) hc⟩

theorem Sending.success (hm : u.msgbuf = m) (h : pushes u.trace = goal) : Sending m goal (u.ret .success) :=
  ⟨hm, fun _ => nofun, fun _ _ => h⟩

/-- An access moves a word from the words unsent to the trace, or none. -/
theorem SendAccess.pushes_eq {left left' : List (List Word)} {v : State} (h : SendAccess u left v left') :
    v.msgbuf = u.msgbuf ∧ pushes v.trace ++ left'.flatten = pushes u.trace ++ left.flatten := by
  cases h with
  | look => exact ⟨rfl, rfl⟩
  | push w ws later =>
    refine ⟨rfl, ?_⟩
    rw [State.txPush_trace, pushes_append, List.append_assoc]
    rfl
  | notify later =>
    refine ⟨rfl, ?_⟩
    rw [State.writeHcsr_trace, pushes_append, List.append_assoc]
    rfl

/-- A step of the transfer after the environment's moves keeps the words of the message together. -/
theorem Sending.step {t : State} {p : Pos} (h : Sending m goal u) (hq : u.seq = .busy p)
    (ha : engineAct u.advance p = .next t) : Sending m goal t := by
  obtain ⟨left, hleft, hwords⟩ := h.busy p hq
  have hm : u.advance.msgbuf = m := u.advance_msgbuf.trans h.msgbuf
  rw [← u.advance_trace] at hwords
  obtain ⟨t', ha', hstep⟩ := engineAct_sendStep (u := u.advance) (congrArg memRead hm) hleft
  obtain rfl : t' = t := Host.Outcome.next.inj (ha'.symm.trans ha)
  cases hstep with
  | goesOn v left' q access next unsent _ _ _ _ =>
    obtain ⟨hmsg, hpushes⟩ := access.pushes_eq
    rw [next]
    exact .goto (hmsg.trans hm) unsent (hpushes.trans hwords)
  | waits w x _ _ next unsent => rw [next]; exact .goto (p := .pollNow w x) hm unsent hwords
  | succeeds none next => rw [next]; exact .success hm (by simpa [none] using hwords)
  | fails c moved next cause =>
    rw [next]
    refine .ret (u := u.advance.abort c moved) hm ?_
    rcases cause with ⟨rfl, -⟩ | ⟨rfl, -⟩ | ⟨rfl, -⟩ <;> decide

/-- A transfer begins with the packets of the plan unsent. -/
theorem Sending.txSendBegin (hm : u.msgbuf = m) (dst src : Byte) (len : Nat) :
    Sending m (pushes u.trace ++ encodeMessage src dst (memRead m) len (maxPay u.cfg.hdepth))
      (txSendBegin u dst src len) := by
  unfold Machine.txSendBegin encodeMessage
  split
  next hplan => exact .success hm (by rw [hplan]; simp)
  next p ps hplan =>
    refine .goto (left := packetWords src dst (memRead m) p :: ps.map (packetWords src dst (memRead m))) hm rfl ?_
    rw [hplan, List.flatMap_def, List.map_cons]

end

/-- A circular SEND that has ended well has pushed the message. -/
theorem exec_sending {a b : Byte} {s t : State} (hk : s.cfg.kind = .circular) (h : exec (.send a b) s = .next t) :
    Sending s.msgbuf
      (pushes s.trace ++ encodeMessage b a (memRead s.msgbuf) s.arg0.toNat (maxPay s.cfg.hdepth)) t := by
  rw [exec_eq_run] at h
  by_cases hd : s.cfg.devicePresent = true
  · obtain ⟨k, hle, hgate, -⟩ := reaches_gateEnd a b hd
    have kept := afterGate_kept s
    rw [runCommand, beginCommand, engineRun_of_reaches hgate (hle.trans (by decide))] at h
    refine engineRun_induct (fun u p v hq hu ha => hu.step hq ha) ?_ h
    rw [gateEnd_afterGate hk]
    split
    · split
      · rw [← kept.trace, ← kept.cfg]
        exact .txSendBegin kept.msgbuf a b s.arg0.toNat
      · exact .ret kept.msgbuf (by decide)
    · exact .ret kept.msgbuf (by decide)
  · have e : beginSend a b s = s.ret .deviceNotPresent := if_neg hd
    rw [beginCommand, e, runCommand_ret] at h
    cases h
    exact .ret rfl (by decide)

/-- Settles O47: at a successful end nothing is left to push. The premise of R246 is not needed. -/
theorem sendPushesTheMessage : Obligations.SendPushesTheMessage :=
  fun _ _ _ _ hk _ h hidle hcode => (exec_sending hk h).ended hidle hcode

end Sys2Proof.Machine
end

section
/-! What a circular RECV pops (42_cb_transport.md R148, R149). At every position the words popped are whole packets,
none of them the last of a message, and the packet in hand as far as it has been read; the payload bytes read so far are
in `MSGBUF` up to the capacity. No move of the environment touches any of it. -/

namespace Sys2Proof.Machine

/-! ### Words read by the decoder -/

/-- The decoder reads one packet whole, and stops or goes on by its completion flag (41_codec.md R136). -/
theorem decodePackets_packet {hw : Word} {payload : List Word} (h : payload.length = wordsOf (headerLen hw))
    (fuel : Nat) (rest : List Word) :
    decodePackets (fuel + 1) (hw :: payload ++ rest) =
      if (decodeHeader hw).mc then some (unpackBytes payload (headerLen hw), decodeHeader hw, rest)
      else (decodePackets fuel rest).map fun d => (unpackBytes payload (headerLen hw) ++ d.1, d.2) := by
  have enough : ¬ (payload ++ rest).length < wordsOf (headerLen hw) := by
    rw [List.length_append, h]; omega
  rw [List.cons_append, decodePackets]
  simp only [headerLen] at h enough ⊢
  simp only [if_neg enough, List.take_left' h, List.drop_left' h]
  cases decodePackets fuel rest <;> rfl

/-- Words that are whole packets, none of them the last of its message, with the bytes of these packets. -/
def PacketsRead (words : List Word) (bytes : List Byte) : Prop :=
  ∃ k, k ≤ words.length ∧ ∀ (fuel : Nat) (rest : List Word),
    decodePackets (fuel + k) (words ++ rest) = (decodePackets fuel rest).map fun d => (bytes ++ d.1, d.2)

theorem PacketsRead.nil : PacketsRead [] [] := by
  refine ⟨0, Nat.le_refl 0, fun fuel rest => ?_⟩
  rw [List.nil_append, Nat.add_zero]
  cases decodePackets fuel rest <;> rfl

section
variable {words payload : List Word} {bytes : List Byte} {hw : Word} (h : PacketsRead words bytes)
include h

theorem PacketsRead.snoc (hlen : payload.length = wordsOf (headerLen hw)) (hmc : (decodeHeader hw).mc = false) :
    PacketsRead (words ++ hw :: payload) (bytes ++ unpackBytes payload (headerLen hw)) := by
  obtain ⟨k, hk, hread⟩ := h
  refine ⟨k + 1, by rw [List.length_append, List.length_cons]; omega, fun fuel rest => ?_⟩
  rw [List.append_assoc, Nat.add_comm k 1, ← Nat.add_assoc, hread, decodePackets_packet hlen, hmc]
  cases decodePackets fuel rest with
  | none => rfl
  | some d => simp

/-- With a last packet after them the words are one message. -/
theorem PacketsRead.last (hlen : payload.length = wordsOf (headerLen hw)) (hmc : (decodeHeader hw).mc = true) :
    decodeMessage (words ++ hw :: payload) =
      some (bytes ++ unpackBytes payload (headerLen hw), decodeHeader hw, []) := by
  obtain ⟨k, hk, hread⟩ := h
  obtain ⟨fuel, hfuel⟩ : ∃ fuel, (words ++ hw :: payload).length = fuel + 1 + k := by
    refine ⟨words.length + payload.length - k, ?_⟩
    rw [List.length_append, List.length_cons]; omega
  have packet := decodePackets_packet hlen fuel []
  rw [List.append_nil, if_pos hmc] at packet
  rw [decodeMessage, hfuel, hread, packet]
  rfl

/-- Without it they are not. -/
theorem PacketsRead.decodeMessage_eq_none : decodeMessage words = none := by
  obtain ⟨k, hk, hread⟩ := h
  have empty : ∀ fuel, decodePackets fuel [] = none := fun fuel => by cases fuel <;> rfl
  obtain ⟨fuel, hfuel⟩ := Nat.exists_eq_add_of_le' hk
  rw [decodeMessage, hfuel, ← List.append_nil words, hread, empty]
  rfl

/-- Nor are they with a part of a packet after them. -/
theorem PacketsRead.decodeMessage_part_eq_none (hlen : payload.length < wordsOf (headerLen hw)) :
    decodeMessage (words ++ hw :: payload) = none := by
  obtain ⟨k, hk, hread⟩ := h
  have short : ∀ fuel, decodePackets fuel (hw :: payload) = none := fun fuel => by
    cases fuel with
    | zero => rfl
    | succ fuel =>
      rw [decodePackets]
      exact if_pos hlen
  obtain ⟨fuel, hfuel⟩ : ∃ fuel, (words ++ hw :: payload).length = fuel + k := by
    refine ⟨(words ++ hw :: payload).length - k, ?_⟩
    rw [List.length_append]; omega
  rw [decodeMessage, hfuel, hread, short]
  rfl

end

/-! ### Bytes of a payload read so far -/

@[simp] theorem length_unpackBytes (ws : List Word) (len : Nat) : (unpackBytes ws len).length = len := by
  simp [unpackBytes]

theorem unpackBytes_succ (ws : List Word) (len : Nat) :
    unpackBytes ws (len + 1) = unpackBytes ws len ++ [unpackByte (ws.getD (len / 4) 0) (len % 4)] := by
  rw [unpackBytes, List.range_succ, List.map_append]
  rfl

/-- Further words do not change the bytes of the first ones. -/
theorem unpackBytes_append (ws more : List Word) {len : Nat} (h : len ≤ 4 * ws.length) :
    unpackBytes (ws ++ more) len = unpackBytes ws len := by
  refine List.map_congr_left fun k hk => ?_
  have inside : k / 4 < ws.length := by have := List.mem_range.mp hk; omega
  rw [List.getD_append _ _ _ _ inside]

/-- Byte `b` of the word read last. -/
theorem unpackBytes_last (ws : List Word) (w : Word) {b : Nat} (hb : b < 4) :
    unpackBytes (ws ++ [w]) (4 * ws.length + (b + 1)) =
      unpackBytes (ws ++ [w]) (4 * ws.length + b) ++ [unpackByte w b] := by
  have word : (4 * ws.length + b) / 4 = ws.length := by omega
  have place : (4 * ws.length + b) % 4 = b := by omega
  rw [← Nat.add_assoc, unpackBytes_succ, word, place]
  simp

/-- More bytes of the same words come after those read. -/
theorem unpackBytes_eq_append (ws : List Word) {j j' : Nat} (h : j ≤ j') :
    ∃ more, more.length = j' - j ∧ unpackBytes ws j' = unpackBytes ws j ++ more := by
  obtain ⟨d, rfl⟩ := Nat.exists_eq_add_of_le h
  refine ⟨_, ?_, by rw [unpackBytes, List.range_add, List.map_append]; rfl⟩
  simp

/-! ### What RECV has written -/

theorem memWriteList_append (m : Memory) (i : Nat) (xs ys : List Byte) :
    memWriteList m i (xs ++ ys) = memWriteList (memWriteList m i xs) (i + xs.length) ys := by
  induction xs generalizing m i with
  | nil => rfl
  | cons x xs ih =>
    rw [List.cons_append, memWriteList, memWriteList, ih, List.length_cons, Nat.add_assoc, Nat.add_comm 1]

/-- After the bytes `seen`, with room for `max`: how many have been written, whether some have not, the buffer. -/
structure Stored (max : Nat) (old : Memory) (seen : List Byte) (n : Nat) (small : Bool) (m : Memory) : Prop where
  count : n = min seen.length max
  small : small = decide (max < seen.length)
  buffer : m = memWriteList old 0 (seen.take max)

theorem Stored.nil (max : Nat) (old : Memory) : Stored max old [] 0 false old := by
  refine ⟨by simp, by simp, ?_⟩
  rw [List.take_nil]
  rfl

section
variable {max : Nat} {old m : Memory} {seen : List Byte} {n : Nat} {small : Bool} (h : Stored max old seen n small m)
include h

/-- A byte that fits is written behind the others. -/
theorem Stored.write (hn : n < max) (b : Byte) : Stored max old (seen ++ [b]) (n + 1) small (memWrite m n b) := by
  obtain ⟨hcount, hsmall, hbuffer⟩ := h
  have all : n = seen.length := by omega
  have fits : (seen ++ [b]).length ≤ max := by rw [List.length_append, List.length_singleton]; omega
  refine ⟨?_, ?_, ?_⟩
  · rw [Nat.min_eq_left fits, List.length_append, all]; rfl
  · rw [hsmall, decide_eq_decide]; omega
  · rw [List.take_of_length_le fits, memWriteList_append, hbuffer, List.take_of_length_le (by omega), all,
      Nat.zero_add]
    rfl

/-- Bytes that do not fit are dropped. -/
theorem Stored.drop (hn : max ≤ n) {more : List Byte} (hmore : more ≠ []) :
    Stored max old (seen ++ more) n true m := by
  obtain ⟨hcount, hsmall, hbuffer⟩ := h
  have full : max ≤ seen.length := by omega
  have some : 0 < more.length := List.length_pos_iff.mpr hmore
  refine ⟨?_, ?_, ?_⟩
  · rw [List.length_append]; omega
  · rw [List.length_append]; exact (decide_eq_true (by omega)).symm
  · rw [List.take_append_of_le_length full, hbuffer]

end

/-! ### Where a RECV stands -/

/-- What a RECV starts with: whether it blocks, its capacity, and what `MSGBUF` holds. -/
structure RecvOrder where
  blocking : Bool
  max : Nat
  old : Memory

/-- The locals of a RECV that has popped `popped`, between two packets, with `m` in `MSGBUF`. -/
structure RecvCtx.Between (o : RecvOrder) (popped : List Word) (m : Memory) (c : RecvCtx) : Prop where
  blocking : c.blocking = o.blocking
  max : c.max = o.max
  read : ∃ bytes, PacketsRead popped bytes ∧ c.total = bytes.length ∧ Stored o.max o.old bytes c.n c.small m

/-- The locals of a RECV that has popped the header `hw` and after it the words `payload`, and has dealt with the first
`j` bytes of them; the packets before have `total` bytes. -/
structure RecvCtx.Inside (o : RecvOrder) (popped : List Word) (m : Memory) (c : RecvCtx) (total : Nat) (hw : Word)
    (payload : List Word) (j : Nat) : Prop where
  blocking : c.blocking = o.blocking
  max : c.max = o.max
  read : ∃ before bytes, PacketsRead before bytes ∧ popped = before ++ hw :: payload ∧ total = bytes.length ∧
    Stored o.max o.old (bytes ++ unpackBytes payload j) c.n c.small m

/-- A RECV that stands before word `p.i` of the payload. -/
def RecvCtx.AtWord (o : RecvOrder) (popped : List Word) (m : Memory) (c : RecvCtx) (p : RxPacket) : Prop :=
  ∃ payload, payload.length = p.i ∧ p.i < wordsOf (headerLen p.hw) ∧
    c.Inside o popped m c.total p.hw payload (min (4 * p.i) (headerLen p.hw))

/-- A wait of a circular RECV that has popped `popped`. -/
def Wait.reads (o : RecvOrder) (popped : List Word) (m : Memory) : Wait → Prop
  | .recvHeader c => c.Between o popped m
  | .recvWord c p => c.AtWord o popped m p
  | _ => False

/-- A position of a circular RECV that has popped `popped`. -/
def Pos.reads (o : RecvOrder) (popped : List Word) (m : Memory) : Pos → Prop
  | .pollStart w => w.reads o popped m
  | .pollCond w _ => w.reads o popped m
  | .pollNow w _ => w.reads o popped m
  | .recvPopHeader c => c.Between o popped m
  | .recvPopWord c p => c.AtWord o popped m p
  | .recvByte c p w b =>
    b < 4 ∧ 4 * p.i + b < headerLen p.hw ∧ c.n < c.max ∧
      ∃ payload, payload.length = p.i ∧ c.Inside o popped m c.total p.hw (payload ++ [w]) (4 * p.i + b)
  | .recvCheck c hw =>
    ∃ payload total, payload.length = wordsOf (headerLen hw) ∧ c.total = total + headerLen hw ∧
      c.Inside o popped m total hw payload (headerLen hw)
  | _ => False

/-- How far inside the work on one word a position stands: with eight for each word in the ring, a bound on the steps to
come. -/
def Pos.recvPhase : Pos → Nat
  | .pollStart _ => 3
  | .pollCond _ _ => 2
  | .pollNow _ _ => 3
  | .recvPopHeader _ => 1
  | .recvPopWord _ _ => 1
  | .recvByte _ _ _ b => 3 - b + 5
  | .recvCheck _ _ => 4
  | _ => 0

/-- A position whose access is a pop. -/
def Pos.pops : Pos → Bool
  | .recvPopHeader _ => true
  | .recvPopWord _ _ => true
  | _ => false

/-! ### One step of a RECV -/

/-- What a step of a RECV does to the link and the buffer, and the words that it pops. -/
inductive RecvAccess (u : State) : State → List Word → Prop
  | look : RecvAccess u u []
  | pop : RecvAccess u u.rxPop [u.rxFront]
  | store (i : Nat) (b : Byte) : RecvAccess u (u.msgWrite i b) []

/-- Everything one step of a circular RECV at `p` can do: go on, wait on, end with the message drained, fail for one of
three causes, or find nothing. -/
inductive RecvStep (o : RecvOrder) (u : State) (p : Pos) (popped : List Word) (t : State) : Prop
  | goesOn (v : State) (new : List Word) (q : Pos) (access : RecvAccess u v new) (next : t = v.goto q)
      (reads : q.reads o (popped ++ new) v.msgbuf)
      (progress : (p.pops = true → u.rxring ≠ []) →
        8 * v.rxring.length + q.recvPhase < 8 * u.rxring.length + p.recvPhase)
      (word : q.pops = true → rxWordCond u = .ok ∧ v = u) (popping : new ≠ [] → p.pops = true)
      (looks : ∀ w x, q ≠ .pollNow w x)
  | waits (w : Wait) (x : Timer) (position : p = .pollCond w x) (empty : rxWordCond u = .wait)
      (next : t = u.goto (.pollNow w x)) (reads : w.reads o popped u.msgbuf)
  | drains (c : RecvCtx) (hw : Word) (bytes : List Byte) (next : t = u.recvDone c hw)
      (message : decodeMessage popped = some (bytes, decodeHeader hw, [])) (total : c.total = bytes.length)
      (stored : Stored o.max o.old bytes c.n c.small u.msgbuf)
  | fails (c : ResultCode) (moved : Bool) (next : t = u.recvFail c moved)
      (cause : c = .timeout ∧ (∃ w x, p = .pollNow w x) ∨ c = .overflow ∧ overflows u.ccsr = true ∨
        c = .notReady ∧ u.ccsr.rdy = false)
  | findsNothing (next : t = u.ret .noData) (once : o.blocking = false) (late : ∃ w x, p = .pollNow w x)

theorem Wait.cond_of_reads {o : RecvOrder} {popped : List Word} {m : Memory} {w : Wait} (h : w.reads o popped m)
    (u : State) : waitCond u w = rxWordCond u := by
  cases w with
  | recvHeader c => rfl
  | recvWord c p => rfl
  | _ => exact h.elim

theorem rxWordCond_of_err {u : State} {c : ResultCode} (h : rxWordCond u = .err c) :
    c = .overflow ∧ overflows u.ccsr = true := by
  unfold rxWordCond at h
  split at h
  · cases h; exact ⟨rfl, ‹_›⟩
  · split at h <;> cases h

section
variable {o : RecvOrder} {popped : List Word} {v : State}

/-- With whole words dealt with: the wait for the next one, or the ready check. -/
theorem recvNextWord_goesOn {c : RecvCtx} {p : RxPacket} {payload : List Word} (hlen : payload.length = p.i)
    (hi : p.i ≤ wordsOf (headerLen p.hw))
    (h : c.Inside o popped v.msgbuf c.total p.hw payload (min (4 * p.i) (headerLen p.hw))) :
    ∃ q, recvNextWord v c p = v.goto q ∧ q.reads o popped v.msgbuf ∧ q.recvPhase ≤ 4 ∧ q.pops = false ∧
      ∀ w x, q ≠ .pollNow w x := by
  unfold recvNextWord
  split
  next more => exact ⟨_, rfl, ⟨payload, hlen, more, h⟩, by simp only [Pos.recvPhase]; omega, rfl, nofun⟩
  next last =>
    have whole : p.i = wordsOf (headerLen p.hw) := by omega
    have bytes : min (4 * p.i) (headerLen p.hw) = headerLen p.hw := by rw [whole, wordsOf]; omega
    rw [bytes] at h
    exact ⟨_, rfl, ⟨payload, c.total, hlen.trans whole, rfl, h.blocking, h.max, h.read⟩,
      by simp only [Pos.recvPhase]; omega, rfl, nofun⟩

/-- At byte `b` of the word `w`, which is the last one popped. -/
theorem recvNextByte_goesOn {c : RecvCtx} {p : RxPacket} {w : Word} {b : Nat} {payload : List Word}
    (hlen : payload.length = p.i) (hi : p.i < wordsOf (headerLen p.hw)) (hb : b ≤ 4)
    (h : c.Inside o popped v.msgbuf c.total p.hw (payload ++ [w]) (min (4 * p.i + b) (headerLen p.hw))) :
    ∃ q, recvNextByte v c p w b = v.goto q ∧ q.reads o popped v.msgbuf ∧ q.pops = false ∧
      (q.recvPhase ≤ 4 ∨ b < 4 ∧ q.recvPhase = 3 - b + 5) ∧ ∀ w x, q ≠ .pollNow w x := by
  have hlen' : (payload ++ [w]).length = p.i + 1 := by rw [List.length_append, hlen]; rfl
  unfold recvNextByte
  split
  next more =>
    obtain ⟨hb4, hin⟩ := more
    rw [Nat.min_eq_left (Nat.le_of_lt hin)] at h
    split
    next fits => exact ⟨_, rfl, ⟨hb4, hin, fits, payload, hlen, h⟩, rfl, .inr ⟨hb4, rfl⟩, nofun⟩
    next full =>
      obtain ⟨hblk, hmax, before, bytes, hread, hpopped, htotal, hstored⟩ := h
      obtain ⟨more, hmore, hbytes⟩ :=
        unpackBytes_eq_append (payload ++ [w]) (j := 4 * p.i + b) (j' := min (4 * (p.i + 1)) (headerLen p.hw))
          (by omega)
      have rest : more ≠ [] := List.ne_nil_of_length_pos (by omega)
      have drop := hstored.drop (by omega) rest
      rw [List.append_assoc, ← hbytes] at drop
      obtain ⟨q, e, hq, hphase, hpops, hlooks⟩ := recvNextWord_goesOn (v := v) (c := { c with small := true })
        (p := { p with i := p.i + 1 }) hlen' hi ⟨hblk, hmax, before, bytes, hread, hpopped, htotal, drop⟩
      exact ⟨q, e, hq, hpops, .inl hphase, hlooks⟩
  next last =>
    have bytes : min (4 * p.i + b) (headerLen p.hw) = min (4 * (p.i + 1)) (headerLen p.hw) := by omega
    rw [bytes] at h
    obtain ⟨q, e, hq, hphase, hpops, hlooks⟩ :=
      recvNextWord_goesOn (p := { p with i := p.i + 1 }) hlen' hi h
    exact ⟨q, e, hq, hpops, .inl hphase, hlooks⟩

end

section
variable {o : RecvOrder} {u : State} {popped : List Word}

/-- A pop shortens a ring that is not empty. -/
theorem pop_progress {q : Pos} {n : Nat} (hq : q.recvPhase ≤ 8) (hne : u.rxring ≠ []) (hn : n = 1) :
    8 * u.rxPop.rxring.length + q.recvPhase < 8 * u.rxring.length + n := by
  have some : 0 < u.rxring.length := List.length_pos_iff.mpr hne
  rw [State.rxPop_rxring, List.length_tail]
  omega

theorem recvPopHeader_recvStep {c : RecvCtx} (h : c.Between o popped u.msgbuf) :
    RecvStep o u (.recvPopHeader c) popped (recvPopHeader u c) := by
  obtain ⟨hblk, hmax, bytes, hread, htotal, hstored⟩ := h
  have inside : ({ c with moved := true } : RecvCtx).Inside o (popped ++ [u.rxFront]) u.rxPop.msgbuf c.total u.rxFront
      [] (min (4 * 0) (headerLen u.rxFront)) := by
    refine ⟨hblk, hmax, popped, bytes, hread, rfl, htotal, ?_⟩
    rw [Nat.mul_zero, Nat.zero_min]
    exact (List.append_nil bytes).symm ▸ hstored
  obtain ⟨q, e, hq, hphase, hpops, hlooks⟩ :=
    recvNextWord_goesOn (p := { hw := u.rxFront, i := 0 }) rfl (Nat.zero_le _) inside
  exact .goesOn _ _ q .pop e hq (fun hne => pop_progress (by omega) (hne rfl) rfl)
    (fun hp => by rw [hpops] at hp; cases hp) (fun _ => rfl) hlooks

theorem recvPopWord_recvStep {c : RecvCtx} {p : RxPacket} (h : c.AtWord o popped u.msgbuf p) :
    RecvStep o u (.recvPopWord c p) popped (recvPopWord u c p) := by
  obtain ⟨payload, hlen, hi, hblk, hmax, before, bytes, hread, hpopped, htotal, hstored⟩ := h
  have inside : ({ c with moved := true } : RecvCtx).Inside o (popped ++ [u.rxFront]) u.rxPop.msgbuf c.total p.hw
      (payload ++ [u.rxFront]) (min (4 * p.i + 0) (headerLen p.hw)) := by
    refine ⟨hblk, hmax, before, bytes, hread, by rw [hpopped, List.append_assoc]; rfl, htotal, ?_⟩
    rw [Nat.add_zero, unpackBytes_append _ _ (by omega)]
    exact hstored
  obtain ⟨q, e, hq, hpops, hphase, hlooks⟩ := recvNextByte_goesOn hlen hi (Nat.zero_le 4) inside
  exact .goesOn _ _ q .pop e hq (fun hne => pop_progress (by omega) (hne rfl) rfl)
    (fun hp => by rw [hpops] at hp; cases hp) (fun _ => rfl) hlooks

theorem recvByte_recvStep {c : RecvCtx} {p : RxPacket} {w : Word} {b : Nat}
    (h : Pos.reads o popped u.msgbuf (.recvByte c p w b)) :
    RecvStep o u (.recvByte c p w b) popped (recvByte u c p w b) := by
  obtain ⟨hb, hin, hn, payload, hlen, hblk, hmax, before, bytes, hread, hpopped, htotal, hstored⟩ := h
  have hi : p.i < wordsOf (headerLen p.hw) := by unfold wordsOf; omega
  have inside : ({ c with n := c.n + 1 } : RecvCtx).Inside o (popped ++ []) (u.msgWrite c.n (unpackByte w b)).msgbuf
      c.total p.hw (payload ++ [w]) (min (4 * p.i + (b + 1)) (headerLen p.hw)) := by
    refine ⟨hblk, hmax, before, bytes, hread, by rw [List.append_nil, hpopped], htotal, ?_⟩
    have write := hstored.write (hmax ▸ hn) (unpackByte w b)
    rw [Nat.min_eq_left (by omega), ← hlen, unpackBytes_last payload w hb, ← List.append_assoc, hlen]
    exact write
  obtain ⟨q, e, hq, hpops, hphase, hlooks⟩ := recvNextByte_goesOn hlen hi (by omega) inside
  refine .goesOn _ _ q (.store _ _) e hq (fun _ => ?_) (fun hp => by rw [hpops] at hp; cases hp) (absurd rfl) hlooks
  have phase : q.recvPhase < Pos.recvPhase (.recvByte c p w b) := by
    show q.recvPhase < 3 - b + 5
    omega
  exact Nat.add_lt_add_left phase _

theorem recvCheck_recvStep {c : RecvCtx} {hw : Word} (h : Pos.reads o popped u.msgbuf (.recvCheck c hw)) :
    RecvStep o u (.recvCheck c hw) popped (recvCheck u c hw) := by
  obtain ⟨payload, total, hlen, hctotal, hblk, hmax, before, bytes, hread, hpopped, htotal, hstored⟩ := h
  have length : c.total = (bytes ++ unpackBytes payload (headerLen hw)).length := by
    rw [List.length_append, length_unpackBytes, hctotal, htotal]
  unfold recvCheck
  split
  · split
    next last =>
      refine .drains c hw _ rfl ?_ length hstored
      rw [hpopped]
      exact hread.last hlen last
    next more =>
      have read := hread.snoc hlen (Bool.eq_false_iff.mpr more)
      rw [← hpopped, ← List.append_nil popped] at read
      refine .goesOn u [] _ .look rfl ⟨hblk, hmax, _, read, length, hstored⟩ (fun _ => ?_) nofun nofun nofun
      simp only [Pos.recvPhase]; omega
  next down => exact .fails _ _ rfl (.inr (.inr ⟨rfl, Bool.eq_false_iff.mpr down⟩))

/-- The end of a wait by the expiry of its timer. -/
theorem timeout_recvStep {w : Wait} {x : Timer} (h : w.reads o popped u.msgbuf) :
    RecvStep o u (.pollNow w x) popped (waitEnd u (.err .timeout) w) := by
  cases w with
  | recvHeader c =>
    simp only [waitEnd, recvHeaderEnd]
    split
    next once => exact .findsNothing rfl (h.blocking.symm.trans once.right.right) ⟨_, _, rfl⟩
    next => exact .fails _ _ rfl (.inl ⟨rfl, _, _, rfl⟩)
  | recvWord c p => exact .fails _ _ rfl (.inl ⟨rfl, _, _, rfl⟩)
  | _ => exact h.elim

/-- The end of a wait by an overflow, which is never taken for nothing found. -/
theorem overflow_recvStep {w : Wait} {p : Pos} (h : w.reads o popped u.msgbuf) (hover : overflows u.ccsr = true) :
    RecvStep o u p popped (waitEnd u (.err .overflow) w) := by
  cases w with
  | recvHeader c =>
    have e : waitEnd u (.err .overflow) (.recvHeader c) = u.recvFail .overflow c.moved := by
      show recvHeaderEnd u c (.err .overflow) = _
      rw [recvHeaderEnd]
      exact if_neg fun late => absurd late.left (by decide)
    exact .fails _ _ e (.inr (.inl ⟨rfl, hover⟩))
  | recvWord c p => exact .fails _ _ rfl (.inr (.inl ⟨rfl, hover⟩))
  | _ => exact h.elim

/-- One atomic step of a circular RECV. -/
theorem engineAct_recvStep {p : Pos} (hp : p.reads o popped u.msgbuf) :
    ∃ t, engineAct u p = .next t ∧ RecvStep o u p popped t := by
  have look {q : Pos} (hq : q.reads o popped u.msgbuf) (hphase : q.recvPhase < p.recvPhase)
      (hword : q.pops = true → rxWordCond u = .ok) (hlooks : ∀ w x, q ≠ .pollNow w x) :
      RecvStep o u p popped (u.goto q) :=
    .goesOn u [] q .look rfl ((List.append_nil popped).symm ▸ hq) (fun _ => Nat.add_lt_add_left hphase _)
      (fun h => ⟨hword h, rfl⟩) (absurd rfl) hlooks
  cases p with
  | pollStart w => exact ⟨_, rfl, look hp (by simp only [Pos.recvPhase]; omega) nofun nofun⟩
  | pollCond w x =>
    refine ⟨_, rfl, ?_⟩
    have cond := Wait.cond_of_reads hp u
    rcases pollCond_cases u w x with ⟨hc, e⟩ | ⟨hc, e⟩ | ⟨c, hc, e⟩ <;> rw [e] <;> rw [cond] at hc
    · exact .waits w x rfl hc rfl hp
    · cases w with
      | recvHeader c =>
        exact look (q := .recvPopHeader c) hp (by simp only [Pos.recvPhase]; omega) (fun _ => hc) nofun
      | recvWord c p =>
        exact look (q := .recvPopWord c p) hp (by simp only [Pos.recvPhase]; omega) (fun _ => hc) nofun
      | _ => exact hp.elim
    · obtain ⟨rfl, hover⟩ := rxWordCond_of_err hc
      exact overflow_recvStep hp hover
  | pollNow w x =>
    refine ⟨_, rfl, ?_⟩
    rcases pollNow_cases u w x with ⟨-, e⟩ | ⟨-, e⟩ <;> rw [e]
    · exact timeout_recvStep hp
    · exact look (q := .pollCond w x) hp (by simp only [Pos.recvPhase]; omega) nofun nofun
  | recvPopHeader c => exact ⟨_, rfl, recvPopHeader_recvStep hp⟩
  | recvPopWord c x => exact ⟨_, rfl, recvPopWord_recvStep hp⟩
  | recvByte c x w b => exact ⟨_, rfl, recvByte_recvStep hp⟩
  | recvCheck c hw => exact ⟨_, rfl, recvCheck_recvStep hp⟩
  | _ => exact hp.elim

end

/-! ### A RECV along its run -/

/-- What a RECV that has drained a message reports (42_cb_transport.md R148, R149). -/
structure RecvReport (o : RecvOrder) (popped : List Word) (bytes : List Byte) (t : State) : Prop where
  message : decodeMessage popped = some (bytes, decodeHeader t.res1, [])
  result : t.result = if bytes.length ≤ o.max then ResultCode.success.code else ResultCode.bufferTooSmall.code
  res0 : t.res0 = BitVec.ofNat 32 (min bytes.length o.max)
  res2 : bytes.length < 2 ^ 32 → t.res2 = BitVec.ofNat 32 bytes.length
  buffer : t.msgbuf = memWriteList o.old 0 (bytes.take o.max)

theorem recvDone_report {o : RecvOrder} {popped : List Word} {bytes : List Byte} {u : State} {c : RecvCtx} {hw : Word}
    (hmessage : decodeMessage popped = some (bytes, decodeHeader hw, [])) (htotal : c.total = bytes.length)
    (hstored : Stored o.max o.old bytes c.n c.small u.msgbuf) : RecvReport o popped bytes (u.recvDone c hw) where
  message := hmessage
  result := by
    rw [State.recvDone_result, hstored.small]
    by_cases fits : bytes.length ≤ o.max
    · rw [if_pos fits, decide_eq_false (Nat.not_lt.mpr fits)]; rfl
    · rw [if_neg fits, decide_eq_true (Nat.lt_of_not_le fits)]; rfl
  res0 := by rw [State.recvDone_res0, hstored.count]
  res2 small := by rw [State.recvDone_res2, htotal, if_pos small]
  buffer := by rw [State.recvDone_msgbuf, hstored.buffer]

/-- A code by which a RECV says that it has drained a message. -/
def drainCode (c : BitVec 8) : Prop := c = ResultCode.success.code ∨ c = ResultCode.bufferTooSmall.code

theorem not_drainCode {c : ResultCode} (hs : c ≠ .success) (hb : c ≠ .bufferTooSmall) : ¬ drainCode c.code := by
  rintro (h | h)
  · exact hs (ResultCode.code_injective h)
  · exact hb (ResultCode.code_injective h)

/-- A state of a run of a circular RECV, the words `base` popped before it. -/
structure Receiving (o : RecvOrder) (base : List Word) (u : State) : Prop where
  busy : ∀ p, u.seq = .busy p → ∃ popped, pops u.trace = base ++ popped ∧ p.reads o popped u.msgbuf
  ended : u.seq = .idle → drainCode u.result →
    ∃ popped bytes, pops u.trace = base ++ popped ∧ RecvReport o popped bytes u

theorem Receiving.of_ended {o : RecvOrder} {base : List Word} {u : State} (hs : u.seq = .idle)
    (h : ¬ drainCode u.result) : Receiving o base u where
  busy p hq := by rw [hs] at hq; cases hq
  ended _ hc := absurd hc h

/-- An access pops what the trace says. -/
theorem RecvAccess.pops_eq {u v : State} {new : List Word} (h : RecvAccess u v new) :
    pops v.trace = pops u.trace ++ new := by
  cases h with
  | look => exact (List.append_nil _).symm
  | pop => rw [State.rxPop_trace, pops_append]; rfl
  | store i b => exact (List.append_nil _).symm

/-- A step of a RECV after the environment's moves. -/
theorem Receiving.step {o : RecvOrder} {base : List Word} {u t : State} {p : Pos} (h : Receiving o base u)
    (hq : u.seq = .busy p) (ha : engineAct u.advance p = .next t) : Receiving o base t := by
  obtain ⟨popped, hpops, hreads⟩ := h.busy p hq
  rw [← u.advance_msgbuf] at hreads
  rw [← u.advance_trace] at hpops
  obtain ⟨t', ha', hstep⟩ := engineAct_recvStep hreads
  obtain rfl : t' = t := Host.Outcome.next.inj (ha'.symm.trans ha)
  cases hstep with
  | goesOn v new q access next reads _ _ _ _ =>
    rw [next]
    refine ⟨fun r hr => ?_, nofun⟩
    obtain rfl : q = r := Seq.busy.inj hr
    exact ⟨popped ++ new, by rw [State.goto_trace, access.pops_eq, hpops, List.append_assoc], reads⟩
  | waits w x _ _ next reads =>
    rw [next]
    refine ⟨fun r hr => ?_, nofun⟩
    obtain rfl : Pos.pollNow w x = r := Seq.busy.inj hr
    exact ⟨popped, hpops, reads⟩
  | drains c hw bytes next message total stored =>
    rw [next]
    exact ⟨fun _ => nofun, fun _ _ => ⟨popped, bytes, hpops, recvDone_report message total stored⟩⟩
  | fails c moved next cause =>
    rw [next]
    have other : c ≠ .success ∧ c ≠ .bufferTooSmall := by
      rcases cause with ⟨rfl, -⟩ | ⟨rfl, -⟩ | ⟨rfl, -⟩ <;> decide
    exact .of_ended rfl (not_drainCode other.left other.right)
  | findsNothing next _ _ => rw [next]; exact .of_ended rfl (not_drainCode (c := .noData) (by decide) (by decide))

/-- What a RECV issued in `s` is to do. -/
def recvOrder (blk : Bool) (s : State) : RecvOrder := { blocking := blk, max := s.arg0.toNat, old := s.msgbuf }

theorem recvStart_between (blk : Bool) (s : State) :
    (recvStart blk s.arg0.toNat).Between (recvOrder blk s) [] s.msgbuf :=
  ⟨rfl, rfl, [], .nil, rfl, .nil _ _⟩

theorem beginRecv_receiving {s : State} (hk : s.cfg.kind = .circular) (blk : Bool) :
    Receiving (recvOrder blk s) (pops s.trace) (beginRecv blk s) := by
  unfold beginRecv
  rw [hk]
  split
  · split
    · refine ⟨fun p hp => ?_, nofun⟩
      obtain rfl : Pos.pollStart (.recvHeader (recvStart blk s.arg0.toNat)) = p := Seq.busy.inj hp
      exact ⟨[], (List.append_nil _).symm, recvStart_between blk s⟩
    · exact .of_ended rfl (not_drainCode (c := .notReady) (by decide) (by decide))
  · exact .of_ended rfl (not_drainCode (c := .deviceNotPresent) (by decide) (by decide))

theorem exec_receiving {blk : Bool} {s t : State} (hk : s.cfg.kind = .circular) (h : exec (.recv blk) s = .next t) :
    Receiving (recvOrder blk s) (pops s.trace) t := by
  rw [exec_eq_run] at h
  exact engineRun_induct (fun _ _ _ hq hu ha => hu.step hq ha) (beginRecv_receiving hk blk) h

/-- A list of bytes written over a canonical buffer is read back, and the rest of the buffer is as it was. -/
theorem memRead_memWriteList {m : Memory} (hm : m.wf = true) (i : Nat) (bs : List Byte) (k : Nat) :
    memRead (memWriteList m i bs) k = if i ≤ k ∧ k < i + bs.length then bs.getD (k - i) 0 else memRead m k := by
  induction bs generalizing m i with
  | nil => rw [memWriteList, if_neg (by simp)]
  | cons b bs ih =>
    rw [memWriteList, ih (memWrite_wf hm i b), memRead_memWrite hm, List.length_cons]
    rcases Nat.lt_trichotomy k i with below | rfl | above
    · rw [if_neg (by omega), if_neg (by omega), if_neg (by omega)]
    · rw [if_neg (by omega), if_pos rfl, if_pos (by omega), Nat.sub_self]; rfl
    · obtain ⟨d, hd⟩ : ∃ d, k - i = d + 1 := ⟨k - i - 1, by omega⟩
      have shift : k - (i + 1) = d := by omega
      rw [if_neg (show ¬ k = i by omega), hd, shift, List.getD_cons_succ]
      exact if_congr (by omega) rfl rfl

/-- The buffer of a report, byte by byte. -/
theorem RecvReport.memRead_eq {o : RecvOrder} {popped : List Word} {bytes : List Byte} {t : State}
    (h : RecvReport o popped bytes t) (hwf : o.old.wf = true) (k : Nat) :
    memRead t.msgbuf k = if k < min bytes.length o.max then bytes.getD k 0 else memRead o.old k := by
  rw [h.buffer, memRead_memWriteList hwf, Nat.zero_add, List.length_take, Nat.sub_zero, Nat.min_comm]
  by_cases inside : k < min bytes.length o.max
  · rw [if_pos ⟨Nat.zero_le k, inside⟩, if_pos inside, List.getD_eq_getElem?_getD, List.getD_eq_getElem?_getD,
      List.getElem?_take_of_lt (by omega)]
  · rw [if_neg (fun h => inside h.right), if_neg inside]

/-- Settles O53, by the report at the end of the run. The premise of R246 is not needed. -/
theorem recvDrainsOneMessage : Obligations.RecvDrainsOneMessage := by
  intro blk s t hk hwf _ h hidle hcode
  obtain ⟨popped, bytes, hpops, report⟩ := (exec_receiving hk h).ended hidle hcode
  have room : min bytes.length s.arg0.toNat < 2 ^ 32 := Nat.lt_of_le_of_lt (Nat.min_le_right _ _) s.arg0.isLt
  refine ⟨popped, bytes, decodeHeader t.res1, hpops, report.message, rfl, ?_, ?_, fun small => ?_,
    report.memRead_eq hwf⟩
  · rw [report.result]
    split
    · exact iff_of_true rfl ‹_›
    · exact iff_of_false (by decide) ‹_›
  · rw [report.res0, BitVec.toNat_ofNat]
    exact Nat.mod_eq_of_lt room
  · rw [report.res2 small, BitVec.toNat_ofNat, Nat.mod_eq_of_lt small]

end Sys2Proof.Machine
end

section
/-! The commands that end without a transfer (42_cb_transport.md R141, R148, R152): the wrong link state, and the waits
of a circular INIT and LRESET, which end at their first look or when their timer expires. -/

namespace Sys2Proof.Machine

/-- Settles O20: each command is seen to end before its first access. -/
theorem wrongLinkState : Obligations.WrongLinkState := by
  intro s hd
  refine ⟨fun hl => ?_, fun hl => ?_, fun blk hl => ?_, fun hl => ?_⟩ <;> rw [exec_eq_run, beginCommand]
  · have early : beginInit s = s.ret .success := by rw [beginInit, if_pos hd, hl]
    rw [early, runCommand_ret]; rfl
  · have early : beginInit s = s.ret .notReady := by rw [beginInit, if_pos hd, hl]
    rw [early, runCommand_ret]; rfl
  · have early : beginRecv blk s = s.ret .notReady := by rw [beginRecv, if_pos hd, if_neg hl]
    rw [early, runCommand_ret]; rfl
  · have early : beginLreset s = s.ret .notReady := by rw [beginLreset, if_pos hd, if_pos hl]
    rw [early, runCommand_ret]; rfl

/-- The moves before a step are the next entry of the schedule. -/
theorem State.advance_of_cons {u : State} {ms : List EnvMove} {later : List (List EnvMove)} (h : u.env = ms :: later) :
    u.advance = ({ u with env := later } : State).envMoves ms := by
  unfold State.advance
  rw [h]

/-! ### Polls, step by step -/

/-- What a wait looks at and what follows it do not depend on the position. -/
theorem waitCond_goto (s : State) (p : Pos) (w : Wait) : waitCond (s.goto p) w = waitCond s w := by
  cases w <;> rfl

theorem waitEnd_goto (s : State) (p : Pos) (r : PollEnd) (w : Wait) : waitEnd (s.goto p) r w = waitEnd s r w := by
  cases w <;> cases r <;> rfl

section
variable {s : State} {w : Wait}

/-- The timer that a poll starts after the moves before its first step. -/
def State.pollTimer (s : State) (w : Wait) : Timer :=
  { start := s.now, stop := deadline s.cfg s.now (waitDuration s.cfg w) }

theorem reaches_pollCond (s : State) (w : Wait) :
    Reaches 1 (s.poll w) (s.advance.goto (.pollCond w (s.advance.pollTimer w))) :=
  .at_goto (p := .pollStart w) nofun rfl

/-- A look that finds the condition met ends the poll. -/
theorem reaches_waitEnd_of_ok {x : Timer} (h : waitCond s.advance w = .ok) :
    Reaches 1 (s.goto (.pollCond w x)) (waitEnd s.advance .ok w) := by
  refine .at_goto nofun ?_
  rw [engineAct, pollCond, waitCond_goto, h]
  exact congrArg _ (waitEnd_goto _ _ _ _)

/-- A look that does not is followed by the expiry test. -/
theorem reaches_pollNow_of_wait {x : Timer} (h : waitCond s.advance w = .wait) :
    Reaches 1 (s.goto (.pollCond w x)) (s.advance.goto (.pollNow w x)) := by
  refine .at_goto nofun ?_
  rw [engineAct, pollCond, waitCond_goto, h]
  rfl

/-- An expiry test that finds the timer expired ends the poll. -/
theorem reaches_timeout {x : Timer} (hspins : spins (s.goto (.pollNow w x)) (.pollNow w x) = false)
    (h : expired x.start x.stop s.advance.now = true) :
    Reaches 1 (s.goto (.pollNow w x)) (waitEnd s.advance (.err .timeout) w) := by
  refine .one rfl hspins ?_
  rw [State.advance_goto, engineAct, pollNow]
  exact (congrArg _ (if_pos h)).trans (congrArg _ (waitEnd_goto _ _ _ _))

/-- One that does not is followed by another look. -/
theorem reaches_pollCond_of_not_expired {x : Timer}
    (hspins : spins (s.goto (.pollNow w x)) (.pollNow w x) = false)
    (h : expired x.start x.stop s.advance.now = false) :
    Reaches 1 (s.goto (.pollNow w x)) (s.advance.goto (.pollCond w x)) := by
  refine .one rfl hspins ?_
  rw [State.advance_goto, engineAct, pollNow]
  exact congrArg _ (if_neg (Bool.eq_false_iff.mp h))

/-- A poll whose first look finds its condition met. -/
theorem reaches_waitEnd_of_first (h : waitCond s.advance.advance w = .ok) :
    Reaches 2 (s.poll w) (waitEnd s.advance.advance .ok w) :=
  (reaches_pollCond s w).trans (reaches_waitEnd_of_ok h)

end

/-! ### INIT and LRESET at the first look -/

/-- Settles O41: the two steps of the poll and the write. -/
theorem initCircular : Obligations.InitCircular := by
  intro s hd hk hl hrdy
  have start : beginInit s = s.poll .initReady := by rw [beginInit, if_pos hd, hl, hk]
  have look : Reaches 2 (s.poll .initReady) (s.advance.advance.goto .initWrite) :=
    reaches_waitEnd_of_first (if_pos hrdy)
  have write : Reaches 1 (s.advance.advance.goto .initWrite) (initWrite s.advance.advance.advance) :=
    .at_goto nofun rfl
  have run : runCommand (s.poll .initReady) = .next (initWrite s.advance.advance.advance) :=
    runCommand_of_reaches (look.trans write) (by decide) rfl
  rw [exec_eq_run, beginCommand, start, run]
  simp only [initWrite, State.writeHcsr, State.linkUp, State.setLink, State.ret, State.advance_trace]
  rfl

/-- Settles O43: the write of step 1, the two steps of each of the two polls, and the write of step 4. -/
theorem lresetCircular : Obligations.LresetCircular := by
  intro s hd hk hl s1 h1 s2 s3 s4 s5 h5 haccepted hready
  have start : beginLreset s = (s.setLink .resetting).goto .lresetBegin := by
    rw [beginLreset, if_pos hd, if_neg hl, hk]
  have reset : Reaches 1 ((s.setLink .resetting).goto .lresetBegin) (s2.poll .resetAccepted) := .at_goto nofun rfl
  have accepted : Reaches 2 (s2.poll .resetAccepted) (s3.poll .resetReady) :=
    reaches_waitEnd_of_first (if_neg (Bool.eq_false_iff.mp haccepted))
  have ready : Reaches 2 (s3.poll .resetReady) (s4.goto .lresetEnd) := reaches_waitEnd_of_first (if_pos hready)
  have write : Reaches 1 (s4.goto .lresetEnd) (lresetEnd s5) := .at_goto nofun rfl
  have run : runCommand ((s.setLink .resetting).goto .lresetBegin) = .next (lresetEnd s5) :=
    runCommand_of_reaches (reset.trans (accepted.trans (ready.trans write))) (by decide) rfl
  rw [exec_eq_run, beginCommand, start, run]
  rfl

/-! ### The timeout of INIT -/

/-- A timer sampled within one period of the counter has not expired before its ticks are over, and has expired after
(40_timer.md R115). -/
theorem expired_within_period {m start ticks e : Nat} (hstart : start < m) (hticks : ticks < m) (he : e < m) :
    (expired start ((start + ticks) % m) ((start + e) % m) = true → ticks ≤ e) ∧
      (ticks < e → expired start ((start + ticks) % m) ((start + e) % m) = true) := by
  have wraps {d : Nat} (hd : d < m) :
      start + d < m ∧ (start + d) % m = start + d ∨ m ≤ start + d ∧ (start + d) % m = start + d - m := by
    rcases Nat.lt_or_ge (start + d) m with inside | past
    · exact .inl ⟨inside, Nat.mod_eq_of_lt inside⟩
    · exact .inr ⟨past, by rw [Nat.mod_eq_sub_mod past, Nat.mod_eq_of_lt (by omega)]⟩
  rw [expired_iff]
  rcases wraps hticks with ⟨hs, es⟩ | ⟨hs, es⟩ <;> rcases wraps he with ⟨hn, en⟩ | ⟨hn, en⟩ <;> rw [es, en] <;> omega

/-- The timer started when the counter is `start`, with a duration of `ticks` (40_timer.md R112). -/
def timerFrom (c : Config) (start ticks : Nat) : Timer :=
  { start := start, stop := (start + ticks) % 2 ^ c.cw }

/-- A state in which only the environment has moved, and `e` ticks have passed since the counter was `start`. -/
structure Ticked (s : State) (start e : Nat) (u : State) : Prop where
  eq : u = { s with counter := u.counter, env := u.env, seq := u.seq }
  counter : u.counter.toNat = (start + e) % 2 ^ s.cfg.cw

section
variable {s u : State} {start e : Nat} (h : Ticked s start e u)
include h

theorem Ticked.cfg : u.cfg = s.cfg := by rw [h.eq]

theorem Ticked.ccsr : u.ccsr = s.ccsr := by rw [h.eq]

theorem Ticked.now_eq : u.now = (start + e) % 2 ^ s.cfg.cw := by
  rw [State.now, h.cfg, h.counter, Nat.mod_mod]

/-- An entry of ticks before a step. -/
theorem Ticked.advance (hw : s.cfg.cw ≤ 32) {n : Nat} {ns : List Nat} (henv : u.env = ticksOnly (n :: ns)) :
    Ticked s start (e + n) u.advance ∧ u.advance.env = ticksOnly ns := by
  have moved : u.advance = { (u.tick n) with env := ticksOnly ns } := State.advance_of_cons henv
  have room : 2 ^ s.cfg.cw ≤ 2 ^ 32 := Nat.pow_le_pow_right (by decide) hw
  have inside : (u.counter.toNat + n) % 2 ^ s.cfg.cw < 2 ^ 32 :=
    Nat.lt_of_lt_of_le (Nat.mod_lt _ (Nat.two_pow_pos _)) room
  rw [moved]
  refine ⟨⟨?_, ?_⟩, rfl⟩
  · rw [State.tick, h.eq]
  · rw [State.tick, h.cfg, BitVec.toNat_ofNat, Nat.mod_eq_of_lt inside, h.counter, Nat.mod_add_mod, Nat.add_assoc]

/-- A timer started `e` ticks ago, within one period. -/
theorem Ticked.expired_timerFrom {ticks : Nat} (hstart : start < 2 ^ s.cfg.cw) (hticks : ticks < 2 ^ s.cfg.cw)
    (he : e < 2 ^ s.cfg.cw) :
    (expired (timerFrom s.cfg start ticks).start (timerFrom s.cfg start ticks).stop u.now = true → ticks ≤ e) ∧
      (ticks < e → expired (timerFrom s.cfg start ticks).start (timerFrom s.cfg start ticks).stop u.now = true) := by
  rw [h.now_eq]
  exact expired_within_period hstart hticks he

end

/-- The wait of INIT that never succeeds, from a look on: with enough ticks to come it ends at an expiry test within its
window. `T` is the duration of the timer, and the last test, with `e` ticks elapsed, was not too late. -/
theorem reaches_initTimeout {s : State} {start T bound : Nat} (hw : s.cfg.cw ≤ 32) (hrdy : s.ccsr.rdy = false)
    (hstart : start < 2 ^ s.cfg.cw) (hfit : T + 2 * bound < 2 ^ s.cfg.cw) (ns : List Nat) :
    ∀ (u : State) (e : Nat), Ticked s start e u → u.env = ticksOnly ns → (∀ n ∈ ns, n ≤ bound) → e ≤ T →
      T < e + ns.sum →
      ∃ k v e', k ≤ ns.length + 1 ∧
        Reaches k (u.goto (.pollCond .initReady (timerFrom s.cfg start T)))
          (v.ret .timeout) ∧
        Ticked s start e' v ∧ T ≤ e' ∧ e' ≤ T + 2 * bound := by
  induction ns using List.twoStepInduction with
  | nil => intro u e _ _ _ hle hlt; exact absurd hlt (by simpa using hle)
  | singleton n =>
    intro u e hu henv hbound hle hlt
    obtain ⟨hlook, hend⟩ := hu.advance hw henv
    rw [List.sum_singleton] at hlt
    have small : n ≤ bound := hbound n (List.mem_singleton_self n)
    have still : u.advance.advance = u.advance := State.advance_nil hend
    have late := (hlook.expired_timerFrom hstart (ticks := T) (by omega) (by omega)).right hlt
    have look := reaches_pollNow_of_wait (s := u) (w := .initReady)
      (x := timerFrom s.cfg start T) (if_neg (by rw [hlook.ccsr, hrdy]; decide))
    have test := reaches_timeout (s := u.advance) (w := .initReady)
      (x := timerFrom s.cfg start T)
      (by
        show (_ && !expired _ _ u.advance.now) = false
        rw [late, Bool.not_true, Bool.and_false])
      (by rw [still]; exact late)
    rw [still] at test
    exact ⟨2, _, _, by simp, look.trans test, hlook, by omega, by omega⟩
  | cons_cons n m ns ih _ =>
    intro u e hu henv hbound hle hlt
    obtain ⟨hlook, hrest⟩ := hu.advance hw henv
    obtain ⟨htest, hrest'⟩ := hlook.advance hw hrest
    obtain ⟨smalln, smallm, hlater⟩ : n ≤ bound ∧ m ≤ bound ∧ ∀ k ∈ ns, k ≤ bound := by simpa using hbound
    have look := reaches_pollNow_of_wait (s := u) (w := .initReady)
      (x := timerFrom s.cfg start T) (if_neg (by rw [hlook.ccsr, hrdy]; decide))
    have runs : spins (u.advance.goto (.pollNow .initReady (timerFrom s.cfg start T)))
        (.pollNow .initReady (timerFrom s.cfg start T)) = false := by
      show (u.advance.env.isEmpty && _) = false
      rw [hrest]
      rfl
    obtain ⟨early, late⟩ := htest.expired_timerFrom hstart (ticks := T) (by omega) (by omega)
    cases hexp : expired (timerFrom s.cfg start T).start (timerFrom s.cfg start T).stop u.advance.advance.now with
    | true => exact ⟨2, _, _, by simp, look.trans (reaches_timeout runs hexp), htest, early hexp, by omega⟩
    | false =>
      have notLate : e + n + m ≤ T := Nat.le_of_not_lt fun h => by rw [late h] at hexp; cases hexp
      obtain ⟨k, v, e', hk, hreach, hv, hlow, hhigh⟩ :=
        ih u.advance.advance (e + n + m) htest hrest' hlater notLate (by simp only [List.sum_cons] at hlt; omega)
      refine ⟨2 + k, v, e', by simp only [List.length_cons]; omega, ?_, hv, hlow, hhigh⟩
      exact (look.trans (reaches_pollCond_of_not_expired runs hexp)).trans hreach

/-- Settles O42: the first entry passes before the timer is started, the others during the wait. -/
theorem initTimesOut : Obligations.InitTimesOut := by
  intro s n ns hsafe hd hk hl hrdy henv hlen hbound hsum
  obtain ⟨_, hcounter, _, _, hsampling, _⟩ := (config_wf_iff s.cfg).mp hsafe.cfg
  simp only [Config.counterOk, Config.samplingOk, Bool.and_eq_true, decide_eq_true_eq] at hcounter hsampling
  obtain ⟨⟨_, narrow⟩, _⟩ := hcounter
  obtain ⟨sampling, _⟩ := hsampling
  have start : beginInit s = s.poll .initReady := by rw [beginInit, if_pos hd, hl, hk]
  have idle : Ticked s s.counter.toNat 0 s := ⟨rfl, (Nat.mod_eq_of_lt hsafe.inv.counter).symm⟩
  obtain ⟨hfirst, hrest⟩ := idle.advance narrow henv
  have began : Ticked s s.advance.now 0 s.advance :=
    ⟨hfirst.eq, by rw [hfirst.now_eq, hfirst.counter, Nat.add_zero, Nat.mod_mod]⟩
  have inPeriod : s.advance.now < 2 ^ s.cfg.cw := by
    rw [hfirst.now_eq]; exact Nat.mod_lt _ (Nat.two_pow_pos _)
  have fits : ticksOf s.cfg 15000000 + 2 * s.cfg.maxTicksPerStep < 2 ^ s.cfg.cw := by
    have period := Nat.two_pow_pos s.cfg.cw
    rw [ticksOf]
    omega
  obtain ⟨k, v, e, hk', hreach, hv, hlow, hhigh⟩ :=
    reaches_initTimeout narrow hrdy inPeriod fits ns s.advance 0 began hrest hbound (Nat.zero_le _)
      (by omega)
  have timer : s.advance.pollTimer .initReady = timerFrom s.cfg s.advance.now (ticksOf s.cfg 15000000) := by
    simp only [State.pollTimer, deadline, State.advance_cfg]
    rfl
  have run : exec .init s = .next (v.ret .timeout) := by
    rw [exec_eq_run, beginCommand, start]
    exact runCommand_of_reaches ((reaches_pollCond s .initReady).trans (timer ▸ hreach)) (by omega) rfl
  refine ⟨_, e, run, rfl, rfl, ?_, ?_, hlow, hhigh⟩
  · rw [hv.eq]; rfl
  · rw [State.ret_counter, hv.counter, hfirst.now_eq, Nat.zero_add, Nat.mod_add_mod]

end Sys2Proof.Machine
end

section
/-! A circular SEND that nothing holds up (42_cb_transport.md R143 to R145): where every look finds room and the
controller is ready after each packet, every step brings the end nearer, and the end is `SUCCESS`. -/

namespace Sys2Proof.Machine

/-! ### Room -/

theorem txSpaceCond_of_room {u : State} {need : Nat} (h : filled u.hcsr + need ≤ u.hcsr.depth.toNat) :
    txSpaceCond u need = .ok := by
  have fits : ¬ overflows u.hcsr = true := by rw [overflows_iff]; omega
  rw [txSpaceCond, if_neg fits, if_pos (by rw [space]; omega)]

/-- The first list is a part of all of them. -/
theorem length_headI_le_flatten (left : List (List Word)) : left.headI.length ≤ left.flatten.length := by
  cases left with
  | nil => exact Nat.le_refl 0
  | cons ws later =>
    rw [List.flatten_cons, List.length_append]
    exact Nat.le_add_right _ _

/-! ### The steps of an assured SEND -/

/-- A bound on the steps that a SEND at `p` with the words `left` unsent still makes. -/
def sendSteps (left : List (List Word)) (p : Pos) : Nat := 5 * left.flatten.length + p.phase

/-- A packet has its header word. -/
theorem length_flatten_unsent_pos (bytes : Nat → Byte) (c : SendCtx) : 0 < (c.unsent bytes).flatten.length := by
  simp only [SendCtx.unsent, packetWords, List.flatten_cons, List.cons_append, List.length_cons]
  omega

/-- Wherever a SEND stands, the last ready check is still to come. -/
theorem three_le_sendSteps {bytes : Nat → Byte} {p : Pos} {left : List (List Word)} (h : p.unsent bytes = some left) :
    3 ≤ sendSteps left p := by
  have waiting {w : Wait} (hw : w.unsent bytes = some left) : 0 < left.flatten.length := by
    obtain ⟨c, -, rfl⟩ := Wait.eq_of_unsent bytes hw
    exact length_flatten_unsent_pos bytes c
  unfold sendSteps
  cases p with
  | pollStart w => have := waiting h; omega
  | pollCond w x => have := waiting h; omega
  | pollNow w x => have := waiting h; omega
  | sendHeader c =>
    cases h
    have := length_flatten_unsent_pos bytes c
    omega
  | sendByte c i b acc => cases h; simp only [List.flatten_cons, List.cons_append, List.length_cons]; omega
  | sendWord c i w => cases h; simp only [List.flatten_cons, List.cons_append, List.length_cons]; omega
  | sendNotify c => simp only [Pos.phase]; omega
  | sendCheck c => simp only [Pos.phase]; omega
  | _ => cases h

/-- `Φ n left u` promises a SEND in the state `u`, with at most `n` steps to make and the words `left` unsent, room for
the words of the packet in hand and a ready controller at its next step, and is kept by every step. -/
structure SendAssured (Φ : Nat → List (List Word) → State → Prop) : Prop where
  ready : ∀ {n left u}, Φ n left u → 3 ≤ n → u.advance.ccsr.rdy = true
  room : ∀ {n left u}, Φ n left u → 3 ≤ n →
    filled u.advance.hcsr + left.headI.length ≤ u.advance.hcsr.depth.toNat
  access : ∀ {n m left left' u v}, Φ n left u → 3 ≤ n → m < n → SendAccess u.advance left v left' →
    ∀ q, Φ m left' (v.goto q)

section
variable {Φ : Nat → List (List Word) → State → Prop} (h : SendAssured Φ)
include h

/-- An assured SEND ends with `SUCCESS`, nothing left to push, within its bound. -/
theorem SendAssured.reaches_success {u : State} {p : Pos} {left : List (List Word)} (hq : u.seq = .busy p)
    (hlook : ∀ w x, p ≠ .pollNow w x) (hp : p.unsent (memRead u.msgbuf) = some left)
    (hΦ : Φ (sendSteps left p) left u) :
    ∃ k n v, k ≤ sendSteps left p ∧ Reaches k u (v.advance.ret .success) ∧ 3 ≤ n ∧ Φ n [] v := by
  generalize hn : sendSteps left p = n at hΦ ⊢
  induction n using Nat.strong_induction_on generalizing u p left with
  | _ n ih =>
    have steps : 3 ≤ n := hn ▸ three_le_sendSteps hp
    have ready := h.ready hΦ steps
    have room := h.room hΦ steps
    rw [← u.advance_msgbuf] at hp
    obtain ⟨t, ha, hstep⟩ := engineAct_sendStep rfl hp
    have one : Reaches 1 u t := .one hq (spins_eq_false hlook) ha
    cases hstep with
    | goesOn v left' q access next unsent progress _ _ looks =>
      have shorter : sendSteps left' q < n := hn ▸ progress
      have unsent' : q.unsent (memRead (v.goto q).msgbuf) = some left' := by
        rw [State.goto_msgbuf, access.pushes_eq.left]; exact unsent
      obtain ⟨k, m, w, hk, hreach, hm, hw⟩ :=
        ih _ shorter (u := v.goto q) rfl looks unsent' rfl (h.access hΦ steps shorter access q)
      exact ⟨1 + k, m, w, by omega, (next ▸ one).trans hreach, hm, hw⟩
    | waits w x position full next unsent => rw [txSpaceCond_of_room room] at full; cases full
    | succeeds none next => exact ⟨1, n, u, by omega, next ▸ one, steps, none ▸ hΦ⟩
    | fails c moved next cause =>
      rcases cause with ⟨-, w, x, late⟩ | ⟨-, above⟩ | ⟨-, down⟩
      · exact absurd late (hlook w x)
      · exact absurd ((overflows_iff _).mp above) (by omega)
      · rw [ready] at down; cases down

end

/-- The packets of a SEND issued in `s`, as words. -/
def sentPackets (a b : Byte) (s : State) : List (List Word) :=
  (plan s.arg0.toNat (maxPay s.cfg.hdepth)).map (packetWords b a (memRead s.msgbuf))

theorem flatten_sentPackets (a b : Byte) (s : State) :
    (sentPackets a b s).flatten = encodeMessage b a (memRead s.msgbuf) s.arg0.toNat (maxPay s.cfg.hdepth) := by
  rw [sentPackets, encodeMessage, List.flatMap_def]

theorem maxPay_pos {d : BitVec 8} (h : 2 ≤ d.toNat) : 0 < maxPay d := by unfold maxPay; omega

/-- A transfer begins at the wait for room of its first packet. -/
theorem txSendBegin_eq_poll {u : State} (hdepth : 2 ≤ u.cfg.hdepth.toNat) (dst src : Byte) (len : Nat) :
    ∃ c : SendCtx, txSendBegin u dst src len = u.poll (.sendRoom c) ∧
      c.unsent (memRead u.msgbuf) =
        (plan len (maxPay u.cfg.hdepth)).map (packetWords src dst (memRead u.msgbuf)) := by
  obtain ⟨ps, last, hplan, -, -⟩ := plan_eq_append_last (len := len) (maxPay_pos hdepth)
  unfold txSendBegin
  split
  next empty => rw [empty] at hplan; exact absurd hplan.symm (List.append_ne_nil_of_right_ne_nil _ nofun)
  next p ps heq => exact ⟨_, rfl, by rw [heq]; rfl⟩

/-- A circular SEND that the gate lets pass and that is assured from there on. -/
theorem SendAssured.exec_send {Φ : Nat → List (List Word) → State → Prop} (h : SendAssured Φ) {a b : Byte} {s : State}
    (hd : s.cfg.devicePresent = true) (hk : s.cfg.kind = .circular) (hdepth : 2 ≤ s.cfg.hdepth.toNat)
    (hl : s.lstate = .ready) (hpass : s.gatePasses = true)
    (hsmall : (sentPackets a b s).flatten.length ≤ 255)
    (hΦ : ∀ w, Φ (5 * (sentPackets a b s).flatten.length + 2) (sentPackets a b s) (s.afterGate.poll w)) :
    ∃ n v, exec (.send a b) s = .next (v.advance.ret .success) ∧ 3 ≤ n ∧ Φ n [] v := by
  obtain ⟨k, hk4, hgate, -⟩ := reaches_gateEnd a b hd
  have kept := afterGate_kept s
  obtain ⟨c, start, unsent⟩ := txSendBegin_eq_poll (u := s.afterGate) (kept.cfg.symm ▸ hdepth) a b s.arg0.toNat
  rw [gateEnd_afterGate hk, if_pos hpass, if_pos hl, start] at hgate
  rw [kept.cfg, kept.msgbuf] at unsent
  have waiting : Pos.unsent (memRead (s.afterGate.poll (.sendRoom c)).msgbuf) (.pollStart (.sendRoom c)) =
      some (sentPackets a b s) := by
    show some (c.unsent (memRead s.afterGate.msgbuf)) = _
    rw [kept.msgbuf, unsent, sentPackets]
  obtain ⟨j, n, v, hj, hreach, hn, hv⟩ :=
    h.reaches_success (u := s.afterGate.poll (.sendRoom c)) rfl nofun waiting (hΦ _)
  have bound : j ≤ 5 * (sentPackets a b s).flatten.length + 2 := hj
  refine ⟨n, v, ?_, hn, hv⟩
  rw [exec_eq_run]
  exact runCommand_of_reaches (hgate.trans hreach) (by omega) rfl

/-! ### A quiet link with room for the whole message -/

/-- The end of a SEND that pushes the words `left` from `u` on, with one notification for each list. -/
def State.sent (u : State) (left : List (List Word)) : State :=
  { u with
    txring := u.txring ++ left.flatten
    hcsr := { u.hcsr with wp := u.hcsr.wp + BitVec.ofNat 8 left.flatten.length, ig := u.hcsr.ig || !left.isEmpty }
    trace := u.trace ++ sendEvents u.hcsr left
    result := ResultCode.success.code
    seq := .idle }

theorem State.sent_nil (u : State) : u.sent [] = u.ret .success := by
  simp only [State.sent, State.ret, sendEvents, List.flatten_nil, List.append_nil, List.length_nil, List.isEmpty_nil,
    Bool.not_true, Bool.or_false]
  have same : u.hcsr.wp + BitVec.ofNat 8 0 = u.hcsr.wp := BitVec.add_zero _
  rw [same]

/-- One access more does not change the end. -/
theorem SendAccess.sent_eq {u v : State} {left left' : List (List Word)} (h : SendAccess u left v left') :
    v.sent left' = u.sent left := by
  cases h with
  | look => rfl
  | push w ws later =>
    have wp (n : Nat) : u.hcsr.wp + 1 + BitVec.ofNat 8 n = u.hcsr.wp + BitVec.ofNat 8 (n + 1) := by
      rw [Nat.add_comm n 1, BitVec.ofNat_add, BitVec.add_assoc]
      rfl
    simp only [State.sent, sendEvents, State.txPush_txring, State.txPush_hcsr, State.txPush_trace, wp,
      List.flatten_cons, List.length_append, List.length_cons, List.append_assoc, List.map_cons, List.cons_append,
      Nat.add_right_comm]
    rfl
  | notify later =>
    have wp : u.hcsr.wp + BitVec.ofNat 8 0 = u.hcsr.wp := BitVec.add_zero _
    simp only [State.sent, sendEvents, State.writeHcsr_txring, State.writeHcsr_hcsr, State.writeHcsr_trace, wp,
      List.flatten_cons, List.nil_append, List.length_nil, List.map_nil, List.append_assoc, Option.getD_none,
      Option.getD_some, Bool.true_or, List.isEmpty_cons, Bool.not_false, Bool.or_true]
    rfl

/-- A SEND on a quiet link that is going to end in `final`, with room for every word. -/
structure QuietSend (final : State) (left : List (List Word)) (u : State) : Prop where
  quiet : u.env = []
  ready : u.ccsr.rdy = true
  room : filled u.hcsr + left.flatten.length ≤ u.hcsr.depth.toNat
  ends : u.sent left = final

theorem quietSend_assured (final : State) : SendAssured fun _ => QuietSend final where
  ready hu _ := by rw [State.advance_nil hu.quiet]; exact hu.ready
  room {_ left u} hu _ := by
    have part := length_headI_le_flatten left
    have room := hu.room
    rw [State.advance_nil hu.quiet]
    omega
  access {n m left left' u v} hu _ _ access q := by
    rw [State.advance_nil hu.quiet] at access
    have ends : (v.goto q).sent left' = final := access.sent_eq.trans hu.ends
    have room := hu.room
    cases access with
    | look => exact ⟨hu.quiet, hu.ready, room, ends⟩
    | push w ws later =>
      refine ⟨hu.quiet, hu.ready, ?_, ends⟩
      have small := u.hcsr.depth.isLt
      rw [List.flatten_cons, List.cons_append, List.length_cons] at room
      rw [State.goto_hcsr, State.txPush_hcsr, filled_wp_succ (by omega), List.flatten_cons]
      show _ ≤ u.hcsr.depth.toNat
      omega
    | notify later => exact ⟨hu.quiet, hu.ready, room, ends⟩

/-- Settles O46: from the end of the gate on, the SEND is assured to end in the state stated. -/
theorem sendCircular : Obligations.SendCircular := by
  intro a b s henv hd hk hdepth hl _ hpass hrdy packets words hroom
  have still : s.afterGate = s := by
    simp only [State.afterGate, State.advance_nil henv, ite_self]
  have flat : (sentPackets a b s).flatten = words := flatten_sentPackets a b s
  have small := s.hcsr.depth.isLt
  obtain ⟨n, v, run, -, hv⟩ := (quietSend_assured (s.sent packets)).exec_send (a := a) (b := b) hd hk hdepth hl hpass
    (by rw [flat]; omega)
    (fun w => by rw [still]; exact ⟨henv, hrdy, by rw [flat]; exact hroom, rfl⟩)
  have some : packets.isEmpty = false := by
    obtain ⟨ps, last, hplan, -, -⟩ := plan_eq_append_last (len := s.arg0.toNat) (maxPay_pos hdepth)
    show ((plan _ _).map _).isEmpty = false
    rw [hplan]
    simp
  rw [run, State.advance_nil hv.quiet, ← State.sent_nil, hv.ends, State.sent, some, Bool.not_false, Bool.or_true,
    show packets.flatten = words from flat]

end Sys2Proof.Machine
end

section
/-! A circular RECV of a message that lies in the ring whole (42_cb_transport.md R148, R149), under an environment that
lets time pass and does nothing else: no wait finds the ring empty, every step brings the end nearer, and at the end
exactly the words of the message have been popped. -/

namespace Sys2Proof.Machine

/-! ### The words of the first message -/

/-- What decodes begins with a whole packet. -/
theorem exists_packet_of_decodePackets {fuel : Nat} {words : List Word} {d : List Byte × Header × List Word}
    (h : decodePackets (fuel + 1) words = some d) :
    ∃ hw payload after, words = hw :: payload ++ after ∧ payload.length = wordsOf (headerLen hw) := by
  cases words with
  | nil => cases h
  | cons hw ws =>
    have enough : wordsOf (headerLen hw) ≤ ws.length := by
      refine Nat.le_of_not_lt fun short => ?_
      rw [decodePackets] at h
      exact Option.some_ne_none _ (h.symm.trans (if_pos short))
    exact ⟨hw, ws.take (wordsOf (headerLen hw)), ws.drop (wordsOf (headerLen hw)),
      by rw [List.cons_append, List.take_append_drop], List.length_take_of_le enough⟩

/-- More words after a message, and more fuel, change nothing but the words left over (41_codec.md R136). -/
theorem decodePackets_append {fuel : Nat} {words rest : List Word} {bytes : List Byte} {last : Header}
    (h : decodePackets fuel words = some (bytes, last, rest)) {more : List Word} {fuel' : Nat} (hf : fuel ≤ fuel') :
    decodePackets fuel' (words ++ more) = some (bytes, last, rest ++ more) := by
  induction fuel generalizing fuel' words bytes with
  | zero => cases h
  | succ fuel ih =>
    obtain ⟨fuel', rfl⟩ := Nat.exists_eq_add_one_of_ne_zero (Nat.ne_zero_of_lt hf)
    obtain ⟨hw, payload, after, rfl, whole⟩ := exists_packet_of_decodePackets h
    rw [decodePackets_packet whole] at h
    rw [List.append_assoc, decodePackets_packet whole]
    split at h
    next mc =>
      cases h
      rw [if_pos mc]
    next mc =>
      obtain ⟨⟨bytes', last', rest'⟩, hd, he⟩ := Option.map_eq_some_iff.mp h
      cases he
      rw [if_neg mc, ih hd (Nat.le_of_succ_le_succ hf)]
      rfl

theorem decodeMessage_append {words : List Word} {bytes : List Byte} {last : Header}
    (h : decodeMessage words = some (bytes, last, [])) (more : List Word) :
    decodeMessage (words ++ more) = some (bytes, last, more) :=
  decodePackets_append h (by rw [List.length_append]; exact Nat.le_add_right _ _)

/-- A payload word holds four bytes. -/
theorem length_le_of_decodePackets {fuel : Nat} {words rest : List Word} {bytes : List Byte} {last : Header}
    (h : decodePackets fuel words = some (bytes, last, rest)) : bytes.length ≤ 4 * words.length := by
  induction fuel generalizing words bytes with
  | zero => cases h
  | succ fuel ih =>
    obtain ⟨hw, payload, after, rfl, whole⟩ := exists_packet_of_decodePackets h
    have room : headerLen hw ≤ 4 * payload.length := by rw [whole, wordsOf]; omega
    rw [decodePackets_packet whole] at h
    rw [List.length_append, List.length_cons]
    split at h
    next mc =>
      cases h
      rw [length_unpackBytes]
      omega
    next mc =>
      obtain ⟨⟨bytes', last', rest'⟩, hd, he⟩ := Option.map_eq_some_iff.mp h
      cases he
      have later := ih hd
      rw [List.length_append, length_unpackBytes]
      show _ + bytes'.length ≤ _
      omega

theorem RecvCtx.AtWord.decodeMessage_eq_none {o : RecvOrder} {popped : List Word} {m : Memory} {c : RecvCtx}
    {p : RxPacket} (h : c.AtWord o popped m p) : decodeMessage popped = none := by
  obtain ⟨payload, hlen, hi, -, -, before, bytes, hread, hpopped, -, -⟩ := h
  rw [hpopped]
  exact hread.decodeMessage_part_eq_none (hlen ▸ hi)

theorem RecvCtx.Between.decodeMessage_eq_none {o : RecvOrder} {popped : List Word} {m : Memory} {c : RecvCtx}
    (h : c.Between o popped m) : decodeMessage popped = none := by
  obtain ⟨-, -, bytes, hread, -, -⟩ := h
  exact hread.decodeMessage_eq_none

/-- A RECV that waits for a word has not popped a whole message. -/
theorem Wait.decodeMessage_eq_none {o : RecvOrder} {popped : List Word} {m : Memory} {w : Wait}
    (h : w.reads o popped m) : decodeMessage popped = none := by
  cases w with
  | recvHeader c => exact RecvCtx.Between.decodeMessage_eq_none h
  | recvWord c p => exact RecvCtx.AtWord.decodeMessage_eq_none h
  | _ => exact h.elim

/-- Nor has one that is about to pop a word. -/
theorem Pos.decodeMessage_eq_none {o : RecvOrder} {popped : List Word} {m : Memory} {p : Pos}
    (h : p.reads o popped m) (hp : p.pops = true) : decodeMessage popped = none := by
  cases p with
  | recvPopHeader c => exact RecvCtx.Between.decodeMessage_eq_none h
  | recvPopWord c p => exact RecvCtx.AtWord.decodeMessage_eq_none h
  | _ => cases hp

/-! ### An environment that lets time pass -/

/-- What the environment still does is let time pass: the schedule has ended, or the loopback has nothing to move. -/
def State.Calm (u : State) : Prop := u.env = [] ∨ loopbackOnly u.env ∧ u.txring = []

theorem envMoves_of_calm {ms : List EnvMove} (hms : ∀ m ∈ ms, m = .loopback ∨ ∃ n, m = .ticks n) {u : State}
    (htx : u.txring = []) : ∃ n, u.envMoves ms = { u with counter := n } := by
  induction ms generalizing u with
  | nil => exact ⟨u.counter, rfl⟩
  | cons m ms ih =>
    obtain ⟨hm, hlater⟩ := List.forall_mem_cons.mp hms
    rw [State.envMoves_cons]
    rcases hm with rfl | ⟨n, rfl⟩
    · have still : u.envMove .loopback = u := by
        show u.loopback = u
        rw [State.loopback, htx]
      rw [still]
      exact ih hlater htx
    · obtain ⟨n', e⟩ := ih hlater (u := u.tick n) htx
      exact ⟨n', e⟩

theorem State.Calm.advance {u : State} (h : u.Calm) :
    u.advance.Calm ∧ ∃ n, (u.env = [] → n = u.counter) ∧ u.advance = { u with counter := n, env := u.env.tail } := by
  rcases h with henv | ⟨henv, htx⟩
  · rw [State.advance_nil henv]
    exact ⟨.inl henv, u.counter, fun _ => rfl, by rw [henv, List.tail_nil, ← henv]⟩
  · cases hs : u.env with
    | nil =>
      rw [State.advance_nil hs]
      exact ⟨.inl hs, u.counter, fun _ => rfl, by rw [List.tail_nil, ← hs]⟩
    | cons ms later =>
      rw [hs] at henv
      obtain ⟨hnow, hlater⟩ := List.forall_mem_cons.mp henv
      obtain ⟨n, e⟩ := envMoves_of_calm hnow (u := { u with env := later }) htx
      have moved : u.advance = { u with counter := n, env := later } := (State.advance_of_cons hs).trans e
      rw [moved]
      exact ⟨.inr ⟨hlater, htx⟩, n, nofun, rfl⟩

/-! ### The run -/

/-- A state of a RECV issued in `s` that has popped `popped`: what has changed since `s`. -/
structure CalmRecv (s : State) (popped : List Word) (u : State) : Prop where
  eq : u = { s with
    rxring := u.rxring
    ccsr := { s.ccsr with rp := s.ccsr.rp + BitVec.ofNat 8 popped.length }
    trace := s.trace ++ popped.map .pop
    msgbuf := u.msgbuf
    counter := u.counter
    seq := u.seq
    env := u.env }
  ring : s.rxring = popped ++ u.rxring
  count : filled u.ccsr = u.rxring.length
  calm : u.Calm
  still : s.env = [] → u.env = [] ∧ u.counter = s.counter

theorem CalmRecv.start {s : State} (hcalm : s.Calm) (hcount : filled s.ccsr = s.rxring.length) (q : Seq) :
    CalmRecv s [] { s with seq := q } := by
  have same : s.ccsr.rp + BitVec.ofNat 8 0 = s.ccsr.rp := BitVec.add_zero _
  refine ⟨?_, rfl, hcount, hcalm, fun h => ⟨h, rfl⟩⟩
  simp only [List.length_nil, same, List.map_nil, List.append_nil]

section
variable {s u : State} {popped : List Word} (h : CalmRecv s popped u)
include h

theorem CalmRecv.advance : CalmRecv s popped u.advance := by
  obtain ⟨heq, hring, hcount, hcalm, hstill⟩ := h
  obtain ⟨hcalm', n, hn, moved⟩ := hcalm.advance
  rw [moved] at hcalm' ⊢
  refine ⟨?_, hring, hcount, hcalm', fun henv => ?_⟩
  · rw [heq]
  · obtain ⟨none, same⟩ := hstill henv
    exact ⟨by rw [none, List.tail_nil], (hn none).trans same⟩

theorem CalmRecv.goto (q : Pos) : CalmRecv s popped (u.goto q) := by
  obtain ⟨heq, hring, hcount, hcalm, hstill⟩ := h
  exact ⟨by rw [heq]; rfl, hring, hcount, hcalm, hstill⟩

/-- An access that pops only from a ring that holds a word. -/
theorem CalmRecv.access {v : State} {new : List Word} (access : RecvAccess u v new) (hne : new ≠ [] → u.rxring ≠ []) :
    CalmRecv s (popped ++ new) v := by
  obtain ⟨heq, hring, hcount, hcalm, hstill⟩ := h
  cases access with
  | look => rw [List.append_nil]; exact ⟨heq, hring, hcount, hcalm, hstill⟩
  | store i b =>
    rw [List.append_nil]
    exact ⟨by rw [heq]; rfl, hring, hcount, hcalm, hstill⟩
  | pop =>
    obtain ⟨w, rest, hcons⟩ := List.exists_cons_of_ne_nil (hne nofun)
    have rp : s.ccsr.rp + BitVec.ofNat 8 popped.length + 1 = s.ccsr.rp + BitVec.ofNat 8 (popped.length + 1) := by
      rw [BitVec.ofNat_add, BitVec.add_assoc]
      rfl
    rw [hcons, List.length_cons] at hcount
    rw [rxPop_of_cons hcons, rxFront_of_cons hcons]
    refine ⟨?_, by rw [hring, hcons, List.append_assoc]; rfl, ?_, hcalm, hstill⟩
    · rw [List.length_append, List.length_singleton, ← rp, List.map_append, ← List.append_assoc, heq]
      rfl
    · rw [filled_rp_succ (by omega), hcount, Nat.add_sub_cancel]

/-- Until the message has been popped whole the ring is not empty. -/
theorem CalmRecv.rxring_ne_nil (hmsg : decodeMessage s.rxring ≠ none) (hpart : decodeMessage popped = none) :
    u.rxring ≠ [] := by
  intro empty
  rw [h.ring, empty, List.append_nil] at hmsg
  exact hmsg hpart

/-- The ring has not overflowed. -/
theorem CalmRecv.filled_le (hfits : s.rxring.length ≤ s.ccsr.depth.toNat) : filled u.ccsr ≤ u.ccsr.depth.toNat := by
  have depth : u.ccsr.depth = s.ccsr.depth := by rw [h.eq]
  have ring := congrArg List.length h.ring
  rw [List.length_append] at ring
  rw [h.count, depth]
  omega

end

/-- A RECV of a message that lies in the ring whole drains it. -/
theorem CalmRecv.reaches_drained {o : RecvOrder} {s : State} (hmsg : decodeMessage s.rxring ≠ none)
    (hfits : s.rxring.length ≤ s.ccsr.depth.toNat) (hrdy : s.ccsr.rdy = true) {u : State} {p : Pos}
    {popped : List Word} (hq : u.seq = .busy p) (hlook : ∀ w x, p ≠ .pollNow w x) (hp : p.reads o popped u.msgbuf)
    (h : CalmRecv s popped u) :
    ∃ k v all c hw bytes, k ≤ 8 * u.rxring.length + p.recvPhase + 1 ∧ Reaches k u (v.recvDone c hw) ∧
      CalmRecv s all v ∧ decodeMessage all = some (bytes, decodeHeader hw, []) ∧ c.total = bytes.length ∧
      Stored o.max o.old bytes c.n c.small v.msgbuf := by
  generalize hn : 8 * u.rxring.length + p.recvPhase = n
  induction n using Nat.strong_induction_on generalizing u p popped with
  | _ n ih =>
    have now := h.advance
    have fits := now.filled_le hfits
    have ring : u.advance.rxring = u.rxring := List.append_cancel_left (now.ring.symm.trans h.ring)
    have ready : u.advance.ccsr.rdy = true := by rw [now.eq]; exact hrdy
    rw [← u.advance_msgbuf] at hp
    obtain ⟨t, ha, hstep⟩ := engineAct_recvStep hp
    have one : Reaches 1 u t := .one hq (spins_eq_false hlook) ha
    cases hstep with
    | goesOn v new q access next reads progress _ popping looks =>
      have some (hpops : p.pops = true) : u.advance.rxring ≠ [] :=
        now.rxring_ne_nil hmsg (Pos.decodeMessage_eq_none hp hpops)
      have shorter : 8 * (v.goto q).rxring.length + q.recvPhase < n := by
        have := progress some
        rw [ring, hn] at this
        exact this
      have later := now.access access fun hnew => some (popping hnew)
      obtain ⟨k, w, all, c, hw, bytes, hk, hreach, rest⟩ :=
        ih _ shorter (u := v.goto q) rfl looks reads (later.goto q) rfl
      exact ⟨1 + k, w, all, c, hw, bytes, by omega, (next ▸ one).trans hreach, rest⟩
    | waits w x position empty next reads =>
      have none : decodeMessage popped = none := Wait.decodeMessage_eq_none reads
      have some : 1 ≤ filled u.advance.ccsr := by
        rw [now.count]
        exact List.length_pos_iff.mpr (now.rxring_ne_nil hmsg none)
      have free : ¬ overflows u.advance.ccsr = true := by rw [overflows_iff]; omega
      rw [rxWordCond, if_neg free, if_pos some] at empty
      cases empty
    | drains c hw bytes next message total stored =>
      exact ⟨1, _, popped, c, hw, bytes, by omega, next ▸ one, now, message, total, stored⟩
    | fails c moved next cause =>
      rcases cause with ⟨-, w, x, late⟩ | ⟨-, above⟩ | ⟨-, down⟩
      · exact absurd late (hlook w x)
      · exact absurd ((overflows_iff _).mp above) (by omega)
      · rw [ready] at down; cases down
    | findsNothing next once late =>
      obtain ⟨w, x, late⟩ := late
      exact absurd late (hlook w x)

/-- The exact next state of a RECV that finds a whole message; the time that has passed is left open, unless the
schedule had ended before. -/
theorem exec_recv_calm {blk : Bool} {s : State} {bytes : List Byte} {last : Header} {rest : List Word}
    (hcalm : s.Calm) (hd : s.cfg.devicePresent = true) (hk : s.cfg.kind = .circular) (hl : s.lstate = .ready)
    (hrdy : s.ccsr.rdy = true) (hcount : filled s.ccsr = s.rxring.length)
    (hfits : s.rxring.length ≤ s.ccsr.depth.toNat) (hmsg : decodeMessage s.rxring = some (bytes, last, rest)) :
    ∃ hw n env, decodeHeader hw = last ∧ (s.env = [] → n = s.counter ∧ env = []) ∧
      exec (.recv blk) s =
        .next { s with
          rxring := rest
          ccsr := { s.ccsr with rp := s.ccsr.rp + BitVec.ofNat 8 (s.rxring.length - rest.length) }
          trace := s.trace ++ (s.rxring.take (s.rxring.length - rest.length)).map .pop
          msgbuf := memWriteList s.msgbuf 0 (bytes.take s.arg0.toNat)
          res0 := BitVec.ofNat 32 (min bytes.length s.arg0.toNat)
          res1 := hw
          res2 := BitVec.ofNat 32 bytes.length
          result := if bytes.length ≤ s.arg0.toNat then ResultCode.success.code else ResultCode.bufferTooSmall.code
          counter := n
          env := env
          seq := .idle } := by
  have start : beginRecv blk s = s.poll (.recvHeader (recvStart blk s.arg0.toNat)) := by
    rw [beginRecv, if_pos hd, if_pos hl, hk]
  have whole : decodeMessage s.rxring ≠ none := by rw [hmsg]; nofun
  obtain ⟨k, v, all, c, hw, bytes', hk', hreach, hv, message, total, stored⟩ :=
    CalmRecv.reaches_drained (o := recvOrder blk s) whole hfits hrdy
      (u := s.poll (.recvHeader (recvStart blk s.arg0.toNat))) rfl nofun (recvStart_between blk s)
      (CalmRecv.start hcalm hcount _)
  obtain ⟨rfl, rfl, rfl⟩ : bytes' = bytes ∧ decodeHeader hw = last ∧ v.rxring = rest := by
    have same := decodeMessage_append message v.rxring
    rw [← hv.ring, hmsg] at same
    cases same
    exact ⟨rfl, rfl, rfl⟩
  have small := s.ccsr.depth.isLt
  have steps : k ≤ 2 ^ 64 := by
    have : k ≤ 8 * s.rxring.length + 3 + 1 := hk'
    omega
  have short : bytes'.length < 2 ^ 32 := by
    have := length_le_of_decodePackets hmsg
    omega
  have popped : s.rxring.length - v.rxring.length = all.length := by
    rw [hv.ring, List.length_append, Nat.add_sub_cancel]
  have words : s.rxring.take all.length = all := by rw [hv.ring, List.take_left]
  have report := recvDone_report message total stored
  have drained : v.recvDone c hw =
      { v with
        res0 := BitVec.ofNat 32 (min bytes'.length s.arg0.toNat)
        res1 := hw
        res2 := BitVec.ofNat 32 bytes'.length
        result := if bytes'.length ≤ s.arg0.toNat then ResultCode.success.code else ResultCode.bufferTooSmall.code
        seq := .idle } := by
    have result := report.result
    rw [State.recvDone_result] at result
    simp only [State.recvDone, State.ret, total, if_pos short, stored.count, result]
    rfl
  have buffer : v.msgbuf = memWriteList s.msgbuf 0 (bytes'.take s.arg0.toNat) := report.buffer
  refine ⟨hw, v.counter, v.env, rfl, fun henv => ⟨(hv.still henv).right, (hv.still henv).left⟩, ?_⟩
  rw [exec_eq_run, beginCommand, start, runCommand_of_reaches hreach steps rfl, popped, words, drained, ← buffer]
  rw [hv.eq]

/-- Settles O52: on a quiet link no time passes either. -/
theorem recvCircular : Obligations.RecvCircular := by
  intro blk s bytes last rest henv hd hk hl _ hrdy hcount hfits hmsg k m
  obtain ⟨hw, n, env, hlast, hstill, run⟩ :=
    exec_recv_calm (blk := blk) (.inl henv) hd hk hl hrdy hcount hfits hmsg
  obtain ⟨rfl, rfl⟩ := hstill henv
  exact ⟨hw, hlast, run.trans (by rw [← henv])⟩

end Sys2Proof.Machine
end

section
/-! The loopback fixture (20_memory.md R74): what its moves and ticks do to the two rings. The words of `TXRING` come to
the end of `RXRING` in their order, and the pointers count both rings. -/

namespace Sys2Proof.Machine

/-- A link whose pointers count its rings, the controller ready. -/
structure LoopLink (u : State) : Prop where
  ready : u.ccsr.rdy = true
  tx : filled u.hcsr = u.txring.length
  txFits : u.txring.length ≤ u.hcsr.depth.toNat
  rx : filled u.ccsr = u.rxring.length
  rxFits : u.rxring.length ≤ u.ccsr.depth.toNat
  cdepth : u.ccsr.depth = u.cfg.cdepth

/-- Words have come from the front of `TXRING` to the end of `RXRING`. -/
def Flow (u v : State) : Prop := ∃ ws, v.rxring = u.rxring ++ ws ∧ u.txring = ws ++ v.txring

theorem Flow.refl (u : State) : Flow u u := ⟨[], (List.append_nil _).symm, rfl⟩

theorem Flow.trans {u v w : State} (h : Flow u v) (h' : Flow v w) : Flow u w := by
  obtain ⟨ws, hrx, htx⟩ := h
  obtain ⟨ws', hrx', htx'⟩ := h'
  exact ⟨ws ++ ws', by rw [hrx', hrx, List.append_assoc], by rw [htx, htx', List.append_assoc]⟩

section
variable {u v : State} (h : Flow u v)
include h

/-- No word is lost, none overtakes another. -/
theorem Flow.words_eq : v.rxring ++ v.txring = u.rxring ++ u.txring := by
  obtain ⟨ws, hrx, htx⟩ := h
  rw [hrx, htx, List.append_assoc]

theorem Flow.txring_length_le : v.txring.length ≤ u.txring.length := by
  obtain ⟨ws, -, htx⟩ := h
  rw [htx, List.length_append]
  exact Nat.le_add_left _ _

theorem Flow.rxring_ne_nil (hne : u.rxring ≠ []) : v.rxring ≠ [] := by
  obtain ⟨ws, hrx, -⟩ := h
  rw [hrx]
  exact List.append_ne_nil_of_left_ne_nil hne ws

end

/-- A loopback empties a `TXRING` of one word, if there is room for it. -/
theorem txring_loopback_eq_nil {u : State} (hone : u.txring.length ≤ 1)
    (hroom : (u.rxring ++ u.txring).length ≤ u.cfg.cdepth.toNat) : u.loopback.txring = [] := by
  unfold State.loopback
  split
  next hnil => exact hnil
  next w rest hcons =>
    rw [hcons, List.length_cons] at hone
    rw [List.length_append, hcons, List.length_cons] at hroom
    have none : rest = [] := List.eq_nil_of_length_eq_zero (by omega)
    rw [if_pos (by omega), consume_of_cons hcons]
    exact none

section
variable {u : State} (h : LoopLink u)
include h

theorem LoopLink.congr {v : State} (hcfg : v.cfg = u.cfg) (hh : v.hcsr = u.hcsr) (hc : v.ccsr = u.ccsr)
    (htx : v.txring = u.txring) (hrx : v.rxring = u.rxring) : LoopLink v where
  ready := hc ▸ h.ready
  tx := by rw [hh, htx]; exact h.tx
  txFits := by rw [hh, htx]; exact h.txFits
  rx := by rw [hc, hrx]; exact h.rx
  rxFits := by rw [hc, hrx]; exact h.rxFits
  cdepth := by rw [hc, hcfg]; exact h.cdepth

theorem LoopLink.txPush (hroom : u.txring.length < u.hcsr.depth.toNat) (w : Word) : LoopLink (u.txPush w) where
  ready := h.ready
  tx := by
    have small : filled u.hcsr < 255 := by have := u.hcsr.depth.isLt; rw [h.tx]; omega
    rw [State.txPush_hcsr, filled_wp_succ small, h.tx, State.txPush_txring, List.length_append, List.length_singleton]
  txFits := by rw [State.txPush_txring, List.length_append, List.length_singleton]; exact hroom
  rx := h.rx
  rxFits := h.rxFits
  cdepth := h.cdepth

theorem LoopLink.rxPop (hne : u.rxring ≠ []) : LoopLink u.rxPop where
  ready := h.ready
  tx := h.tx
  txFits := h.txFits
  rx := by
    have some : 0 < filled u.ccsr := by rw [h.rx]; exact List.length_pos_iff.mpr hne
    rw [State.rxPop_ccsr, filled_rp_succ some, h.rx, State.rxPop_rxring, List.length_tail]
  rxFits := by
    rw [State.rxPop_rxring, List.length_tail]
    exact (Nat.sub_le _ _).trans h.rxFits
  cdepth := h.cdepth

/-- A notification writes the flags only. -/
theorem LoopLink.notify : LoopLink (u.writeHcsr none none (some true)) :=
  ⟨h.ready, h.tx, h.txFits, h.rx, h.rxFits, h.cdepth⟩

/-- The first word of `TXRING` moves where there is room. -/
theorem LoopLink.transfer {w : Word} {rest : List Word} (hcons : u.txring = w :: rest)
    (hroom : u.rxring.length < u.cfg.cdepth.toNat) :
    LoopLink (u.consume.produce w) ∧ Flow u (u.consume.produce w) := by
  have htx := h.tx
  have htxFits := h.txFits
  have small := u.cfg.cdepth.isLt
  rw [hcons, List.length_cons] at htx htxFits
  rw [consume_of_cons hcons]
  refine ⟨⟨h.ready, ?_, by exact Nat.le_of_succ_le htxFits, ?_, ?_, h.cdepth⟩, [w], rfl, hcons⟩
  · show filled { u.hcsr with rp := u.hcsr.rp + 1 } = rest.length
    rw [filled_rp_succ (by omega), htx, Nat.add_sub_cancel]
  · show filled { u.ccsr with wp := u.ccsr.wp + 1 } = (u.rxring ++ [w]).length
    rw [filled_wp_succ (by rw [h.rx]; omega), h.rx, List.length_append, List.length_singleton]
  · show (u.rxring ++ [w]).length ≤ u.ccsr.depth.toNat
    rw [h.cdepth, List.length_append, List.length_singleton]
    exact hroom

theorem LoopLink.loopback : LoopLink u.loopback ∧ Flow u u.loopback := by
  unfold State.loopback
  split
  next => exact ⟨h, .refl u⟩
  next w rest hcons =>
    split
    next hroom => exact h.transfer hcons hroom
    next => exact ⟨h, .refl u⟩

theorem LoopLink.envMove {m : EnvMove} (hm : m = .loopback ∨ ∃ n, m = .ticks n) :
    LoopLink (u.envMove m) ∧ Flow u (u.envMove m) := by
  rcases hm with rfl | ⟨n, rfl⟩
  · exact h.loopback
  · exact ⟨h.congr rfl rfl rfl rfl rfl, .refl u⟩

end

theorem LoopLink.envMoves {ms : List EnvMove} (hms : ∀ m ∈ ms, m = .loopback ∨ ∃ n, m = .ticks n) {u : State}
    (h : LoopLink u) : LoopLink (u.envMoves ms) ∧ Flow u (u.envMoves ms) := by
  induction ms generalizing u with
  | nil => exact ⟨h, .refl u⟩
  | cons m ms ih =>
    obtain ⟨hm, hlater⟩ := List.forall_mem_cons.mp hms
    obtain ⟨hlink, hflow⟩ := h.envMove hm
    obtain ⟨hlink', hflow'⟩ := ih hlater hlink
    exact ⟨hlink', hflow.trans hflow'⟩

/-- A list of moves with a loopback among them empties a `TXRING` of one word, if there is room for it. -/
theorem LoopLink.txring_envMoves_eq_nil {ms : List EnvMove} (hms : ∀ m ∈ ms, m = .loopback ∨ ∃ n, m = .ticks n)
    (hmem : EnvMove.loopback ∈ ms) {u : State} (h : LoopLink u) (hone : u.txring.length ≤ 1)
    (hroom : (u.rxring ++ u.txring).length ≤ u.cfg.cdepth.toNat) : (u.envMoves ms).txring = [] := by
  induction ms generalizing u with
  | nil => cases hmem
  | cons m ms ih =>
    obtain ⟨hm, hlater⟩ := List.forall_mem_cons.mp hms
    obtain ⟨hlink, -⟩ := h.envMove hm
    rcases hm with rfl | ⟨n, rfl⟩
    · have empty : (u.envMove .loopback).txring = [] := txring_loopback_eq_nil hone hroom
      have shrinks := (hlink.envMoves hlater).right.txring_length_le
      rw [empty] at shrinks
      exact List.eq_nil_of_length_eq_zero (Nat.le_zero.mp shrinks)
    · have later : EnvMove.loopback ∈ ms := (List.mem_cons.mp hmem).resolve_left nofun
      exact ih hlater later hlink hone hroom

/-- A link under the loopback at any pace. -/
structure Looping (u : State) : Prop where
  link : LoopLink u
  env : loopbackOnly u.env

theorem Looping.advance {u : State} (h : Looping u) : Looping u.advance ∧ Flow u u.advance := by
  obtain ⟨hlink, henv⟩ := h
  cases hs : u.env with
  | nil =>
    rw [State.advance_nil hs]
    exact ⟨⟨hlink, henv⟩, .refl u⟩
  | cons ms later =>
    rw [hs] at henv
    obtain ⟨hnow, hlater⟩ := List.forall_mem_cons.mp henv
    obtain ⟨hlink', hflow⟩ := LoopLink.envMoves hnow (u := { u with env := later }) (hlink.congr rfl rfl rfl rfl rfl)
    have moved := State.advance_of_cons hs
    have left : u.advance.env = later := by rw [State.advance_env, hs, List.tail_cons]
    exact ⟨⟨moved ▸ hlink', left ▸ hlater⟩, moved ▸ hflow⟩

/-- A prompt loopback leaves nothing of one word in `TXRING`. -/
theorem Looping.txring_advance_eq_nil {u : State} (h : Looping u) (hprompt : loopbackPrompt u.env) (hsome : u.env ≠ [])
    (hone : u.txring.length ≤ 1) (hroom : (u.rxring ++ u.txring).length ≤ u.cfg.cdepth.toNat) :
    u.advance.txring = [] := by
  obtain ⟨ms, later, hs⟩ := List.exists_cons_of_ne_nil hsome
  obtain ⟨honly, hmem⟩ := hprompt
  rw [hs] at honly hmem
  rw [State.advance_of_cons hs]
  exact LoopLink.txring_envMoves_eq_nil (honly ms List.mem_cons_self) (hmem ms List.mem_cons_self)
    (h.link.congr rfl rfl rfl rfl rfl) hone hroom

theorem loopbackPrompt_tail {env : List (List EnvMove)} (h : loopbackPrompt env) : loopbackPrompt env.tail :=
  ⟨fun ms hms => h.left ms (List.mem_of_mem_tail hms), fun ms hms => h.right ms (List.mem_of_mem_tail hms)⟩

end Sys2Proof.Machine
end

section
/-! SEND and RECV under the loopback (42_cb_transport.md R154). A prompt loopback has emptied `TXRING` at every look, so
that nothing holds a SEND up; under a loopback at any pace the words of the message are on their way at every moment:
popped, in `RXRING`, in `TXRING`, or still to be pushed. -/

namespace Sys2Proof.Machine

/-! ### A SEND under a prompt loopback -/

/-- A SEND of `words` issued in `s`, under a loopback that has an entry for each of its steps. -/
structure PromptSend (s : State) (words : List Word) (n : Nat) (left : List (List Word)) (u : State) : Prop where
  looping : Looping u
  prompt : loopbackPrompt u.env
  steps : n ≤ u.env.length + 2
  cfg : u.cfg = s.cfg
  hdepth : u.hcsr.depth = s.cfg.hdepth
  single : u.txring.length ≤ 1
  ring : u.rxring ++ u.txring ++ left.flatten = words
  pushed : pushes u.trace = pushes s.trace ++ (u.rxring ++ u.txring)
  packets : ∀ ws ∈ left, ws.length ≤ s.cfg.hdepth.toNat

section
variable {s u : State} {words : List Word} {n : Nat} {left : List (List Word)} (h : PromptSend s words n left u)
include h

/-- Before each step the loopback empties `TXRING`. -/
theorem PromptSend.txring_advance (hn : 3 ≤ n) (hfits : words.length ≤ s.cfg.cdepth.toNat) :
    u.advance.txring = [] := by
  have steps := h.steps
  have some : u.env ≠ [] := List.ne_nil_of_length_pos (by omega)
  refine h.looping.txring_advance_eq_nil h.prompt some h.single ?_
  rw [h.cfg]
  refine Nat.le_trans ?_ hfits
  rw [← h.ring, List.length_append (as := u.rxring ++ u.txring)]
  exact Nat.le_add_right _ _

theorem PromptSend.advance (hn : 3 ≤ n) (hfits : words.length ≤ s.cfg.cdepth.toNat) {m : Nat} (hm : m < n) :
    PromptSend s words m left u.advance := by
  have empty := h.txring_advance hn hfits
  obtain ⟨hlooping, hprompt, hsteps, hcfg, hdepth, hsingle, hring, hpushed, hpackets⟩ := h
  obtain ⟨looping, flow⟩ := hlooping.advance
  refine ⟨looping, u.advance_env ▸ loopbackPrompt_tail hprompt, ?_, u.advance_cfg.trans hcfg,
    u.advance_hcsr_depth.trans hdepth, ?_, ?_, ?_, hpackets⟩
  · rw [State.advance_env, List.length_tail]; omega
  · rw [empty]; exact Nat.zero_le 1
  · rw [flow.words_eq]; exact hring
  · rw [State.advance_trace, flow.words_eq]; exact hpushed

theorem PromptSend.goto (q : Pos) : PromptSend s words n left (u.goto q) :=
  ⟨⟨h.looping.link.congr rfl rfl rfl rfl rfl, h.looping.env⟩, h.prompt, h.steps, h.cfg, h.hdepth, h.single, h.ring,
    h.pushed, h.packets⟩

/-- A push into an empty ring, or a notification. -/
theorem PromptSend.access (hdepth : 2 ≤ s.cfg.hdepth.toNat) (empty : u.txring = []) {v : State}
    {left' : List (List Word)} (access : SendAccess u left v left') : PromptSend s words n left' v := by
  obtain ⟨hlooping, hprompt, hsteps, hcfg, hhdepth, hsingle, hring, hpushed, hpackets⟩ := h
  cases access with
  | look => exact ⟨hlooping, hprompt, hsteps, hcfg, hhdepth, hsingle, hring, hpushed, hpackets⟩
  | push w ws later =>
    obtain ⟨hfirst, hlater⟩ := List.forall_mem_cons.mp hpackets
    have room : u.txring.length < u.hcsr.depth.toNat := by rw [empty, hhdepth, List.length_nil]; omega
    rw [List.length_cons] at hfirst
    refine ⟨⟨hlooping.link.txPush room w, hlooping.env⟩, hprompt, hsteps, hcfg, hhdepth, ?_, ?_, ?_,
      List.forall_mem_cons.mpr ⟨by omega, hlater⟩⟩
    · rw [State.txPush_txring, empty]; exact Nat.le_refl 1
    · rw [← hring]
      simp only [State.txPush_rxring, State.txPush_txring, List.flatten_cons, List.append_assoc, List.cons_append,
        List.nil_append]
    · rw [State.txPush_trace, pushes_append, hpushed, State.txPush_rxring, State.txPush_txring]
      simp only [List.append_assoc]
      rfl
  | notify later =>
    obtain ⟨-, hlater⟩ := List.forall_mem_cons.mp hpackets
    refine ⟨⟨hlooping.link.notify, hlooping.env⟩, hprompt, hsteps, hcfg, hhdepth, hsingle, hring, ?_, hlater⟩
    rw [State.writeHcsr_trace, pushes_append]
    exact (List.append_nil _).trans hpushed

end

theorem promptSend_assured {s : State} {words : List Word} (hdepth : 2 ≤ s.cfg.hdepth.toNat)
    (hfits : words.length ≤ s.cfg.cdepth.toNat) : SendAssured (PromptSend s words) where
  ready {n left u} hu hn := hu.looping.advance.left.link.ready
  room {n left u} hu hn := by
    have now := hu.advance hn hfits (Nat.lt_of_lt_of_le (by decide : 0 < 3) hn)
    rw [now.looping.link.tx, hu.txring_advance hn hfits, now.hdepth, List.length_nil, Nat.zero_add]
    cases left with
    | nil => exact Nat.zero_le _
    | cons ws later => exact hu.packets ws List.mem_cons_self
  access hu hn hm access q :=
    ((hu.advance hn hfits hm).access hdepth (hu.txring_advance hn hfits) access).goto q

theorem State.LinkIdle.loopLink {s : State} (h : s.LinkIdle) : LoopLink s where
  ready := h.ready
  tx := by rw [h.txCount, h.txring]; rfl
  txFits := by rw [h.txring]; exact Nat.zero_le _
  rx := by rw [h.rxCount, h.rxring]; rfl
  rxFits := by rw [h.rxring]; exact Nat.zero_le _
  cdepth := h.cdepth

/-- The gate is passed with the rings as they were. -/
theorem afterGate_flow {s : State} (h : Looping s) :
    Looping s.afterGate ∧ Flow s s.afterGate ∧ s.afterGate.hcsr.depth = s.hcsr.depth := by
  refine afterGate_induct (P := fun u => Looping u ∧ Flow s u ∧ u.hcsr.depth = s.hcsr.depth) (fun u hu => ?_)
    ⟨h, .refl s, rfl⟩
  obtain ⟨hlooping, hflow, hdepth⟩ := hu
  obtain ⟨looping, flow⟩ := hlooping.advance
  exact ⟨looping, hflow.trans flow, u.advance_hcsr_depth.trans hdepth⟩

/-- The words of a packet of the plan fit the ring (41_codec.md R133). -/
theorem length_le_of_mem_sentPackets {a b : Byte} {s : State} (hdepth : 2 ≤ s.cfg.hdepth.toNat) {ws : List Word}
    (h : ws ∈ sentPackets a b s) : ws.length ≤ s.cfg.hdepth.toNat := by
  obtain ⟨p, hp, rfl⟩ := List.mem_map.mp h
  have short := plen_le_of_mem_plan hp
  rw [length_packetWords, packetNeed, wordsOf]
  unfold maxPay at short
  omega

/-- What a SEND leaves to a RECV: the link looping and ready, and the words of the message in the two rings. -/
structure SentLoop (a b : Byte) (s t : State) : Prop where
  looping : Looping t
  cfg : t.cfg = s.cfg
  lstate : t.lstate = .ready
  ring : t.rxring ++ t.txring = encodeMessage b a (memRead s.msgbuf) s.arg0.toNat (maxPay s.cfg.hdepth)

/-- A SEND that has not ended `NOT_READY` leaves the link ready. -/
theorem lstate_of_send {a b : Byte} {s t : State} (hl : s.lstate = .ready) (h : exec (.send a b) s = .next t)
    (hcode : t.result ≠ ResultCode.notReady.code) : t.lstate = .ready := by
  rcases transfer_linkTransition (.inl rfl) h with same | ⟨-, -, -, -, -, code⟩
  · exact same.trans hl
  · exact absurd code hcode

/-- A SEND under a prompt loopback succeeds, its words in `RXRING`. -/
theorem exec_send_prompt {a b : Byte} {s : State} (hs : s.LinkIdle) (hpass : s.gatePasses = true)
    (hfits : (sentPackets a b s).flatten.length ≤ s.cfg.cdepth.toNat) (hprompt : loopbackPrompt s.env)
    (hlong : 4 + 5 * (sentPackets a b s).flatten.length ≤ s.env.length) :
    ∃ t, exec (.send a b) s = .next t ∧ t.seq = .idle ∧ t.result = ResultCode.success.code ∧ t.txring = [] ∧
      t.rxring = (sentPackets a b s).flatten ∧ pushes t.trace = pushes s.trace ++ (sentPackets a b s).flatten ∧
      SentLoop a b s t := by
  obtain ⟨⟨hdepth, -⟩, -⟩ := depths_in_range_of_wf hs.cfg
  have small := s.cfg.cdepth.isLt
  have kept := afterGate_kept s
  obtain ⟨looping, flow, depth⟩ := afterGate_flow ⟨hs.loopLink, hprompt.left⟩
  obtain ⟨k, hk, -, henv⟩ := reaches_gateEnd a b hs.devicePresent
  have rings : s.afterGate.rxring ++ s.afterGate.txring = [] := by
    rw [flow.words_eq, hs.rxring, hs.txring]; rfl
  obtain ⟨rxNil, txNil⟩ := List.append_eq_nil_iff.mp rings
  have prompt : loopbackPrompt s.afterGate.env := by
    rw [henv]
    exact ⟨fun ms hms => hprompt.left ms (List.mem_of_mem_drop hms),
      fun ms hms => hprompt.right ms (List.mem_of_mem_drop hms)⟩
  have initial : PromptSend s (sentPackets a b s).flatten (5 * (sentPackets a b s).flatten.length + 2)
      (sentPackets a b s) s.afterGate := by
    refine ⟨looping, prompt, ?_, kept.cfg, depth.trans hs.hdepth, ?_, ?_, ?_,
      fun ws => length_le_of_mem_sentPackets hdepth⟩
    · rw [henv, List.length_drop]; omega
    · rw [txNil]; exact Nat.zero_le 1
    · rw [rings]; rfl
    · rw [rings, kept.trace, List.append_nil]
  obtain ⟨n, v, run, hn, hv⟩ := (promptSend_assured hdepth hfits).exec_send hs.devicePresent hs.kind hdepth hs.lstate
    hpass (by omega) fun w => initial.goto (.pollStart w)
  have empty := hv.txring_advance hn hfits
  have last := hv.advance hn hfits (Nat.lt_of_lt_of_le (by decide : 0 < 3) hn)
  have ring := last.ring
  have pushed := last.pushed
  rw [empty, List.append_nil] at pushed
  rw [empty, List.append_nil, List.flatten_nil, List.append_nil] at ring
  refine ⟨_, run, rfl, rfl, empty, ring, ring ▸ pushed, ?_, last.cfg, ?_, ?_⟩
  · exact ⟨last.looping.link.congr rfl rfl rfl rfl rfl, last.looping.env⟩
  · exact lstate_of_send hs.lstate run (by decide : ResultCode.success.code ≠ ResultCode.notReady.code)
  · show v.advance.rxring ++ v.advance.txring = _
    rw [empty, List.append_nil, ring, flatten_sentPackets]

/-! ### A SEND under a loopback at any pace -/

/-- A state of a SEND under the loopback, issued in `s`: it can only succeed or time out. -/
structure LoopSend (s u : State) : Prop where
  looping : Looping u
  msgbuf : u.msgbuf = s.msgbuf
  pushed : pushes u.trace = pushes s.trace ++ (u.rxring ++ u.txring)
  busy : ∀ p, u.seq = .busy p → ∃ left, p.unsent (memRead s.msgbuf) = some left ∧
    (p.pushing = true → u.txring.length + left.headI.length ≤ u.hcsr.depth.toNat)
  ended : u.seq = .idle → u.result = ResultCode.success.code ∨ u.result = ResultCode.timeout.code

section
variable {s u v : State}

theorem LoopSend.goto (hlooping : Looping v) (hmsg : v.msgbuf = s.msgbuf)
    (hpushed : pushes v.trace = pushes s.trace ++ (v.rxring ++ v.txring)) {q : Pos} {left : List (List Word)}
    (hq : q.unsent (memRead s.msgbuf) = some left)
    (hroom : q.pushing = true → v.txring.length + left.headI.length ≤ v.hcsr.depth.toNat) : LoopSend s (v.goto q) where
  looping := ⟨hlooping.link.congr rfl rfl rfl rfl rfl, hlooping.env⟩
  msgbuf := hmsg
  pushed := hpushed
  busy p hp := by
    obtain rfl : q = p := Seq.busy.inj hp
    exact ⟨left, hq, hroom⟩
  ended := nofun

theorem LoopSend.ret (hlooping : Looping v) (hmsg : v.msgbuf = s.msgbuf)
    (hpushed : pushes v.trace = pushes s.trace ++ (v.rxring ++ v.txring)) {c : ResultCode}
    (hc : c = .success ∨ c = .timeout) : LoopSend s (v.ret c) where
  looping := ⟨hlooping.link.congr rfl rfl rfl rfl rfl, hlooping.env⟩
  msgbuf := hmsg
  pushed := hpushed
  busy _ := nofun
  ended _ := hc.imp (congrArg ResultCode.code) (congrArg ResultCode.code)

/-- A link whose rings are counted has not overflowed. -/
theorem LoopLink.not_overflows (h : LoopLink u) : ¬ overflows u.hcsr = true ∧ ¬ overflows u.ccsr = true := by
  rw [overflows_iff, overflows_iff, h.tx, h.rx]
  exact ⟨Nat.not_lt.mpr h.txFits, Nat.not_lt.mpr h.rxFits⟩

theorem LoopLink.room_of_cond (h : LoopLink u) {need : Nat} (hc : txSpaceCond u need = .ok) :
    u.txring.length + need ≤ u.hcsr.depth.toNat := by
  rw [txSpaceCond, if_neg h.not_overflows.left, space, h.tx] at hc
  have fits := h.txFits
  split at hc
  · omega
  · cases hc

theorem LoopLink.word_of_cond (h : LoopLink u) (hc : rxWordCond u = .ok) : u.rxring ≠ [] := by
  rw [rxWordCond, if_neg h.not_overflows.right, h.rx] at hc
  split at hc
  · exact List.length_pos_iff.mp ‹_›
  · cases hc

/-- An access of a SEND under the loopback, with room for a push. -/
theorem SendAccess.looping {left left' : List (List Word)} (access : SendAccess u left v left')
    (hroom : left'.flatten ≠ left.flatten → u.txring.length < u.hcsr.depth.toNat) (h : Looping u)
    (hpushed : pushes u.trace = pushes s.trace ++ (u.rxring ++ u.txring)) :
    Looping v ∧ v.hcsr.depth = u.hcsr.depth ∧ pushes v.trace = pushes s.trace ++ (v.rxring ++ v.txring) := by
  cases access with
  | look => exact ⟨h, rfl, hpushed⟩
  | push w ws later =>
    have shorter : (ws :: later).flatten ≠ ((w :: ws) :: later).flatten := fun e => by
      have := congrArg List.length e
      simp only [List.flatten_cons, List.length_append, List.length_cons] at this
      omega
    refine ⟨⟨h.link.txPush (hroom shorter) w, h.env⟩, rfl, ?_⟩
    rw [State.txPush_trace, pushes_append, hpushed, State.txPush_rxring, State.txPush_txring]
    simp only [List.append_assoc]
    rfl
  | notify later =>
    refine ⟨⟨h.link.notify, h.env⟩, rfl, ?_⟩
    rw [State.writeHcsr_trace, pushes_append]
    exact (List.append_nil _).trans hpushed

/-- A position that pushes has a word to push, which is in the packet in hand. -/
theorem length_headI_pos_of_flatten_ne {left left' : List (List Word)} (access : SendAccess u left v left')
    (h : left'.flatten ≠ left.flatten) : 0 < left.headI.length := by
  cases access with
  | look => exact absurd rfl h
  | push w ws later => exact Nat.succ_pos _
  | notify later => exact absurd rfl h

theorem LoopSend.step {t : State} {p : Pos} (h : LoopSend s u) (hq : u.seq = .busy p)
    (ha : engineAct u.advance p = .next t) : LoopSend s t := by
  obtain ⟨left, hp, hroom⟩ := h.busy p hq
  obtain ⟨looping, flow⟩ := h.looping.advance
  have hmsg : u.advance.msgbuf = s.msgbuf := u.advance_msgbuf.trans h.msgbuf
  have hpushed : pushes u.advance.trace = pushes s.trace ++ (u.advance.rxring ++ u.advance.txring) := by
    rw [State.advance_trace, flow.words_eq]; exact h.pushed
  have room (hpush : p.pushing = true) : u.advance.txring.length + left.headI.length ≤ u.advance.hcsr.depth.toNat := by
    have before := hroom hpush
    have fewer := flow.txring_length_le
    rw [State.advance_hcsr_depth]
    omega
  obtain ⟨t', ha', hstep⟩ := engineAct_sendStep (congrArg memRead hmsg) hp
  obtain rfl : t' = t := Host.Outcome.next.inj (ha'.symm.trans ha)
  cases hstep with
  | goesOn v left' q access next unsent _ pushes room' _ =>
    have free (hne : left'.flatten ≠ left.flatten) : u.advance.txring.length < u.advance.hcsr.depth.toNat := by
      have one := length_headI_pos_of_flatten_ne access hne
      have := room (pushes hne)
      omega
    obtain ⟨looping', hdepth, hpushed'⟩ := access.looping free looping hpushed
    rw [next]
    refine .goto looping' (access.pushes_eq.left.trans hmsg) hpushed' unsent fun hpush => ?_
    rcases room' hpush with ⟨before, same⟩ | ⟨ok, rfl, rfl⟩
    · rw [same, hdepth]; exact room before
    · exact looping.link.room_of_cond ok
  | waits w x _ _ next unsent =>
    rw [next]
    exact .goto (q := .pollNow w x) looping hmsg hpushed unsent nofun
  | succeeds _ next => rw [next]; exact .ret looping hmsg hpushed (.inl rfl)
  | fails c moved next cause =>
    rcases cause with ⟨rfl, -⟩ | ⟨-, above⟩ | ⟨-, down⟩
    · rw [next]
      exact .ret (v := u.advance.abort .timeout moved)
        ⟨looping.link.congr rfl rfl rfl rfl rfl, looping.env⟩ hmsg hpushed (.inr rfl)
    · exact absurd above looping.link.not_overflows.left
    · rw [looping.link.ready] at down; cases down

end

/-- A SEND under the loopback that has ended, and not for a timeout, has succeeded, its words in the two rings. -/
theorem exec_send_loop {a b : Byte} {s t : State} (hs : s.LinkIdle) (hpass : s.gatePasses = true)
    (henv : loopbackOnly s.env) (h : exec (.send a b) s = .next t) (hidle : t.seq = .idle)
    (hcode : t.result ≠ ResultCode.timeout.code) : t.result = ResultCode.success.code ∧ SentLoop a b s t := by
  have result : LoopSend s t := by
    obtain ⟨⟨hdepth, -⟩, -⟩ := depths_in_range_of_wf hs.cfg
    have kept := afterGate_kept s
    obtain ⟨looping, flow, -⟩ := afterGate_flow ⟨hs.loopLink, henv⟩
    obtain ⟨k, hk, hgate, -⟩ := reaches_gateEnd a b hs.devicePresent
    obtain ⟨c, start, -⟩ := txSendBegin_eq_poll (u := s.afterGate) (kept.cfg.symm ▸ hdepth) a b s.arg0.toNat
    rw [gateEnd_afterGate hs.kind, if_pos hpass, if_pos hs.lstate, start] at hgate
    rw [exec_eq_run, runCommand, beginCommand, engineRun_of_reaches hgate (hk.trans (by decide))] at h
    refine engineRun_induct (fun u p v hq hu ha => hu.step hq ha) ?_ h
    refine .goto (q := .pollStart (.sendRoom c)) looping kept.msgbuf ?_ rfl nofun
    rw [kept.trace, flow.words_eq, hs.rxring, hs.txring]
    exact (List.append_nil _).symm
  have success := (result.ended hidle).resolve_right hcode
  have pushed := (exec_sending hs.kind h).ended hidle success
  refine ⟨success, result.looping, (exec_commandRun h).port.cfg, ?_, ?_⟩
  · exact lstate_of_send hs.lstate h (by rw [success]; decide)
  · exact List.append_cancel_left (result.pushed.symm.trans pushed)

/-! ### A RECV under a loopback at any pace -/

/-- A state of a blocking RECV under the loopback, with the words of one message on their way: it can only drain the
message or time out. -/
structure LoopRecv (o : RecvOrder) (words : List Word) (u : State) : Prop where
  looping : Looping u
  busy : ∀ p, u.seq = .busy p → ∃ popped, popped ++ (u.rxring ++ u.txring) = words ∧ p.reads o popped u.msgbuf ∧
    (p.pops = true → u.rxring ≠ [])
  ended : u.seq = .idle → u.result ≠ ResultCode.timeout.code →
    ∃ popped bytes, popped ++ (u.rxring ++ u.txring) = words ∧ RecvReport o popped bytes u

section
variable {o : RecvOrder} {words : List Word} {u v : State}

theorem LoopRecv.goto (hlooping : Looping v) {popped : List Word} (hring : popped ++ (v.rxring ++ v.txring) = words)
    {q : Pos} (hq : q.reads o popped v.msgbuf) (hpops : q.pops = true → v.rxring ≠ []) :
    LoopRecv o words (v.goto q) where
  looping := ⟨hlooping.link.congr rfl rfl rfl rfl rfl, hlooping.env⟩
  busy p hp := by
    obtain rfl : q = p := Seq.busy.inj hp
    exact ⟨popped, hring, hq, hpops⟩
  ended := nofun

/-- An access of a RECV under the loopback, with a word for a pop. -/
theorem RecvAccess.looping {new : List Word} (access : RecvAccess u v new) (hne : new ≠ [] → u.rxring ≠ [])
    (h : Looping u) {popped : List Word} (hring : popped ++ (u.rxring ++ u.txring) = words) :
    Looping v ∧ popped ++ new ++ (v.rxring ++ v.txring) = words := by
  cases access with
  | look => exact ⟨h, by rw [List.append_nil]; exact hring⟩
  | store i b =>
    exact ⟨⟨h.link.congr rfl rfl rfl rfl rfl, h.env⟩, by rw [List.append_nil]; exact hring⟩
  | pop =>
    have some := hne nofun
    refine ⟨⟨h.link.rxPop some, h.env⟩, ?_⟩
    obtain ⟨w, rest, hcons⟩ := List.exists_cons_of_ne_nil some
    rw [hcons] at hring
    rw [rxPop_of_cons hcons, rxFront_of_cons hcons, List.append_assoc]
    exact hring

theorem LoopRecv.step (hblk : o.blocking = true) {t : State} {p : Pos} (h : LoopRecv o words u) (hq : u.seq = .busy p)
    (ha : engineAct u.advance p = .next t) : LoopRecv o words t := by
  obtain ⟨popped, hring, hp, hpops⟩ := h.busy p hq
  obtain ⟨looping, flow⟩ := h.looping.advance
  rw [← flow.words_eq] at hring
  rw [← u.advance_msgbuf] at hp
  obtain ⟨t', ha', hstep⟩ := engineAct_recvStep hp
  obtain rfl : t' = t := Host.Outcome.next.inj (ha'.symm.trans ha)
  cases hstep with
  | goesOn v new q access next reads _ word popping _ =>
    obtain ⟨looping', hring'⟩ :=
      access.looping (fun hnew => flow.rxring_ne_nil (hpops (popping hnew))) looping hring
    rw [next]
    refine .goto looping' hring' reads fun hq => ?_
    obtain ⟨ok, rfl⟩ := word hq
    exact looping.link.word_of_cond ok
  | waits w x _ _ next reads => rw [next]; exact .goto (q := .pollNow w x) looping hring reads nofun
  | drains c hw bytes next message total stored =>
    rw [next]
    exact ⟨⟨looping.link.congr rfl rfl rfl rfl rfl, looping.env⟩, fun _ => nofun,
      fun _ _ => ⟨popped, bytes, hring, recvDone_report message total stored⟩⟩
  | fails c moved next cause =>
    rcases cause with ⟨rfl, -⟩ | ⟨-, above⟩ | ⟨-, down⟩
    · rw [next]
      exact ⟨⟨looping.link.congr rfl rfl rfl rfl rfl, looping.env⟩, fun _ => nofun, fun _ late => absurd rfl late⟩
    · exact absurd above looping.link.not_overflows.right
    · rw [looping.link.ready] at down; cases down
  | findsNothing next once late => rw [hblk] at once; cases once

end

/-! ### The message given back -/

/-- What a RECV with room for it reports of the first `n` bytes of `m`. -/
structure GivesBack (n : Word) (m : Memory) (v : State) : Prop where
  result : v.result = ResultCode.success.code
  res0 : v.res0 = n
  res2 : v.res2 = n
  bytes : memBytes v.msgbuf n.toNat = memBytes m n.toNat

theorem length_messageBytes (bytes : Nat → Byte) (n : Nat) : (messageBytes bytes n).length = n := by
  simp [messageBytes]

theorem RecvReport.givesBack {blk : Bool} {max n : Word} {buf m : Memory} {popped : List Word} {v : State}
    (h : RecvReport { blocking := blk, max := max.toNat, old := buf } popped (messageBytes (memRead m) n.toNat) v)
    (hwf : buf.wf = true) (hle : n.toNat ≤ max.toNat) : GivesBack n m v where
  result := by rw [h.result, length_messageBytes, if_pos hle]
  res0 := by rw [h.res0, length_messageBytes, Nat.min_eq_left hle, BitVec.ofNat_toNat, BitVec.setWidth_eq]
  res2 := by
    rw [h.res2 (by rw [length_messageBytes]; exact n.isLt), length_messageBytes, BitVec.ofNat_toNat,
      BitVec.setWidth_eq]
  bytes := by
    refine List.map_congr_left fun k hk => ?_
    have inside : k < n.toNat := List.mem_range.mp hk
    rw [h.memRead_eq hwf, length_messageBytes, if_pos (by show k < min n.toNat max.toNat; omega)]
    simp [messageBytes, inside]

/-- The encoded message decodes to its bytes (41_codec.md R136). -/
theorem decodeMessage_encodeMessage (src dst : Byte) (bytes : Nat → Byte) (len : Nat) {d : BitVec 8}
    (hdepth : 2 ≤ d.toNat) :
    ∃ last, decodeMessage (encodeMessage src dst bytes len (maxPay d)) = some (messageBytes bytes len, last, []) := by
  obtain ⟨last, h, -⟩ := messageRoundTrip src dst bytes len (maxPay d) [] (maxPay_pos hdepth) (Nat.min_le_right _ _)
  rw [List.append_nil] at h
  exact ⟨last, h⟩

/-- A RECV that finds an encoded message and nothing else gives it back. -/
theorem exec_recv_encoded {blk : Bool} {u : State} {src dst : Byte} {m : Memory} {n : Word} {d : BitVec 8}
    (hdepth : 2 ≤ d.toNat) (hcalm : u.Calm) (hd : u.cfg.devicePresent = true) (hk : u.cfg.kind = .circular)
    (hl : u.lstate = .ready) (hrdy : u.ccsr.rdy = true) (hcount : filled u.ccsr = u.rxring.length)
    (hfits : u.rxring.length ≤ u.ccsr.depth.toNat)
    (hring : u.rxring = encodeMessage src dst (memRead m) n.toNat (maxPay d)) (hwf : u.msgbuf.wf = true)
    (hle : n.toNat ≤ u.arg0.toNat) :
    ∃ v, exec (.recv blk) u = .next v ∧ v.seq = .idle ∧ v.txring = u.txring ∧ v.rxring = [] ∧ GivesBack n m v := by
  obtain ⟨last, hmsg⟩ := decodeMessage_encodeMessage src dst (memRead m) n.toNat hdepth
  rw [← hring] at hmsg
  obtain ⟨hw, c, env, rfl, -, run⟩ := exec_recv_calm (blk := blk) hcalm hd hk hl hrdy hcount hfits hmsg
  have short : (messageBytes (memRead m) n.toNat).length < 2 ^ 32 := by rw [length_messageBytes]; exact n.isLt
  refine ⟨_, run, rfl, rfl, rfl, ?_⟩
  exact RecvReport.givesBack (blk := blk) (popped := u.rxring) ⟨hmsg, rfl, rfl, fun _ => rfl, rfl⟩ hwf hle

/-- A blocking RECV under the loopback that has ended, and not for a timeout, gives the message back. -/
theorem exec_recv_loop {u v : State} {src dst : Byte} {m : Memory} {n : Word} {d : BitVec 8} (hdepth : 2 ≤ d.toNat)
    (hlooping : Looping u) (hd : u.cfg.devicePresent = true) (hk : u.cfg.kind = .circular) (hl : u.lstate = .ready)
    (hring : u.rxring ++ u.txring = encodeMessage src dst (memRead m) n.toNat (maxPay d)) (hwf : u.msgbuf.wf = true)
    (hle : n.toNat ≤ u.arg0.toNat) (h : exec (.recv true) u = .next v) (hidle : v.seq = .idle)
    (hcode : v.result ≠ ResultCode.timeout.code) : v.txring = [] ∧ v.rxring = [] ∧ GivesBack n m v := by
  have start : beginRecv true u = u.poll (.recvHeader (recvStart true u.arg0.toNat)) := by
    rw [beginRecv, if_pos hd, if_pos hl, hk]
  have run : LoopRecv (recvOrder true u) (u.rxring ++ u.txring) v := by
    rw [exec_eq_run, beginCommand, start] at h
    refine engineRun_induct (fun _ _ _ hq hu ha => LoopRecv.step rfl hu hq ha) ?_ h
    exact .goto (q := .pollStart (.recvHeader (recvStart true u.arg0.toNat))) (popped := []) hlooping rfl
      (recvStart_between true u) nofun
  obtain ⟨popped, bytes, words, report⟩ := run.ended hidle hcode
  obtain ⟨last, hmsg⟩ := decodeMessage_encodeMessage src dst (memRead m) n.toNat hdepth
  have whole := decodeMessage_append report.message (v.rxring ++ v.txring)
  rw [words, hring, hmsg] at whole
  simp only [Option.some.injEq, Prod.mk.injEq] at whole
  obtain ⟨rfl, -, none⟩ := whole
  obtain ⟨rxNil, txNil⟩ := List.append_eq_nil_iff.mp none.symm
  exact ⟨txNil, rxNil, report.givesBack hwf hle⟩

/-- An empty ring counts the words that come. -/
theorem filled_wp_add {c : Csr} (h : filled c = 0) {n : Nat} (hn : n ≤ 255) :
    filled { c with wp := c.wp + BitVec.ofNat 8 n } = n := by
  have same : c.wp + BitVec.ofNat 8 n - c.rp = c.wp - c.rp + BitVec.ofNat 8 n := by
    rw [BitVec.sub_eq_add_neg, BitVec.sub_eq_add_neg, BitVec.add_assoc, BitVec.add_comm (BitVec.ofNat 8 n),
      BitVec.add_assoc]
  rw [filled] at h ⊢
  show (c.wp + BitVec.ofNat 8 n - c.rp).toNat = n
  rw [same, BitVec.toNat_add, h, BitVec.toNat_ofNat, Nat.zero_add]
  omega

/-- The header of a packet's first word carries its completion flag. -/
theorem decodeHeader_headD_packetWords_mc (src dst : Byte) (bytes : Nat → Byte) (p : Packet) :
    (decodeHeader ((packetWords src dst bytes p).headD 0)).mc = p.mc := by
  show (decodeHeader (encodeHeader src dst (BitVec.ofNat 9 p.plen) p.mc)).mc = p.mc
  rw [decodeHeader_encodeHeader]

/-- Settles O58: the quiet link by the exact next states of SEND and RECV, the two loopbacks by what their SEND leaves
to the RECV. -/
theorem sendThenRecv : Obligations.SendThenRecv := by
  refine ⟨?_, ?_, ?_⟩
  · intro a b blk s max buf henv hwf hd hk hl hresync hpass hrdy htx hrx htxCount hrxCount hbuf hle words hfits hfits'
    obtain ⟨⟨hdepth, -⟩, -⟩ := depths_in_range_of_wf hwf
    have small := s.ccsr.depth.isLt
    have room : filled s.hcsr + words.length ≤ s.hcsr.depth.toNat := by rw [htxCount, Nat.zero_add]; exact hfits
    obtain ⟨t, sent, result, tring, tcfg, tccsr, tready, tenv⟩ : ∃ t, exec (.send a b) s = .next t ∧
        t.result = ResultCode.success.code ∧ t.txring = words ∧ t.cfg = s.cfg ∧ t.ccsr = s.ccsr ∧ t.lstate = .ready ∧
        t.env = [] :=
      ⟨_, sendCircular a b s henv hd hk hdepth hl hresync hpass hrdy room, rfl, by rw [htx]; rfl, rfl, rfl, hl, henv⟩
    have count : filled { t.ccsr with wp := t.ccsr.wp + BitVec.ofNat 8 words.length } = words.length :=
      filled_wp_add (tccsr ▸ hrxCount) (by omega)
    obtain ⟨v, run, -, -, rxNil, back⟩ :=
      exec_recv_encoded (blk := blk) (m := s.msgbuf) (n := s.arg0) (d := s.cfg.hdepth)
        (u := { t with
          txring := []
          hcsr := { t.hcsr with rp := t.hcsr.wp }
          rxring := t.txring
          ccsr := { t.ccsr with wp := t.ccsr.wp + BitVec.ofNat 8 words.length }
          arg0 := max
          msgbuf := buf })
        hdepth (.inl tenv) (tcfg ▸ hd) (tcfg ▸ hk) tready (tccsr ▸ hrdy) (by rw [tring]; exact count)
        (by rw [tring]; exact tccsr ▸ hfits') tring hbuf hle
    exact ⟨t, v, sent, result, tring, run, back.result, back.res0, back.res2, rxNil, back.bytes⟩
  · intro a b blk s max buf hs hpass hbuf hle packets words hfits hprompt hlong
    obtain ⟨⟨hdepth, -⟩, -⟩ := depths_in_range_of_wf hs.cfg
    have flat : (sentPackets a b s).flatten = words := flatten_sentPackets a b s
    obtain ⟨t, sent, tidle, result, txNil, tring, tpushes, loop⟩ :=
      exec_send_prompt (a := a) (b := b) hs hpass (by rw [flat]; exact hfits) hprompt (by rw [flat]; exact hlong)
    rw [flat] at tring tpushes
    obtain ⟨v, run, vidle, vtx, vrx, back⟩ :=
      exec_recv_encoded (blk := blk) (m := s.msgbuf) (n := s.arg0) (d := s.cfg.hdepth)
        (u := { t with arg0 := max, msgbuf := buf }) hdepth (.inr ⟨loop.looping.env, txNil⟩)
        (loop.cfg ▸ hs.devicePresent) (loop.cfg ▸ hs.kind) loop.lstate loop.looping.link.ready loop.looping.link.rx
        loop.looping.link.rxFits tring hbuf hle
    obtain ⟨count, -, cuts⟩ := planCuts s.arg0.toNat (maxPay s.cfg.hdepth) (maxPay_pos hdepth)
    refine ⟨⟨t, v, sent, tidle, result, txNil, tring, tpushes, run, vidle, back.result, back.res0, back.res2,
      vtx.trans txNil, vrx, back.bytes⟩, rfl, ?_, fun i hi => ?_⟩
    · have empty : s.arg0.toNat = 0 ↔ s.arg0 = 0 := BitVec.toNat_inj (y := 0)
      exact count.trans (if_congr empty rfl rfl)
    · obtain ⟨-, -, last, -⟩ := cuts i hi
      rw [decodeHeader_headD_packetWords_mc]
      exact last
  · intro a b s t v max buf hs hpass hbuf hle henv hsend hidle hcode hrecv hidle' hcode'
    obtain ⟨⟨hdepth, -⟩, -⟩ := depths_in_range_of_wf hs.cfg
    obtain ⟨success, sent⟩ := exec_send_loop hs hpass henv hsend hidle hcode
    obtain ⟨txNil, rxNil, back⟩ :=
      exec_recv_loop (u := { t with arg0 := max, msgbuf := buf }) (m := s.msgbuf) (n := s.arg0) hdepth
        ⟨sent.looping.link.congr rfl rfl rfl rfl rfl, sent.looping.env⟩ (sent.cfg ▸ hs.devicePresent)
        (sent.cfg ▸ hs.kind) sent.lstate sent.ring hbuf hle hrecv hidle' hcode'
    exact ⟨success, back.result, back.res0, back.res2, txNil, rxNil, back.bytes⟩

end Sys2Proof.Machine
end

section
/-! The order of the classification (43_trust.md R171, R172): what each step of `Classify` decides, under the tests before
it that have not matched, and the codes of a legal configuration, which tell the modes apart. -/

namespace Sys2Proof.Machine

/-! ### The steps of `Classify` -/

section
variable {k : StatusCodes} {err cur op : BitVec 4} {bad enf : Bool}

/-- Step 1. -/
theorem classifyFields_of_sps (h : op = k.opSps ∧ err = k.errNone) :
    classifyFields k err cur op bad enf = if cur = k.curRecovery then .spsRcv else .sps :=
  if_pos h

/-- Only step 1 answers an SPS path. -/
theorem classifyFields_ne_sps (h : ¬(op = k.opSps ∧ err = k.errNone)) :
    classifyFields k err cur op bad enf ≠ .sps ∧ classifyFields k err cur op bad enf ≠ .spsRcv := by
  rw [classifyFields, if_neg h]
  constructor <;> (repeat' split) <;> nofun

/-- Step 2. -/
theorem classifyFields_of_enforcement (h : ¬(op = k.opSps ∧ err = k.errNone)) (he : enf = true) :
    classifyFields k err cur op bad enf = .enforcementWithoutDidMsg := by
  rw [classifyFields, if_neg h, if_pos he]

/-- Steps 4 to 7, for a mode of which no step asks. -/
theorem classifyFields_of_unlisted (h : ¬(op = k.opSps ∧ err = k.errNone)) (he : ¬enf = true)
    (hop : op ∉ [k.opDebug, k.opSecoverJmpr, k.opSwTempDisable, k.opSecoverMeiMsg]) :
    classifyFields k err cur op bad enf =
      if err = k.errImageFailure then .errorWithoutDidMsg
      else if cur = k.curRecovery then .recovery
      else if bad = true ∨ err ≠ k.errNone then .error
      else .normal := by
  simp only [List.mem_cons, List.not_mem_nil, or_false, not_or] at hop
  obtain ⟨hdebug, hjmpr, hdisable, hmsg⟩ := hop
  rw [classifyFields, if_neg h, if_neg he, if_neg hdebug, if_neg hjmpr, if_neg hdisable, if_neg hmsg]

end

/-- The modes that the classifier asks for have different codes (43_trust.md R172 d). -/
structure ModesDiffer (k : StatusCodes) : Prop where
  debug_sps : k.opDebug ≠ k.opSps
  jmpr_sps : k.opSecoverJmpr ≠ k.opSps
  disable_sps : k.opSwTempDisable ≠ k.opSps
  msg_sps : k.opSecoverMeiMsg ≠ k.opSps
  jmpr_debug : k.opSecoverJmpr ≠ k.opDebug
  disable_debug : k.opSwTempDisable ≠ k.opDebug
  msg_debug : k.opSecoverMeiMsg ≠ k.opDebug
  disable_jmpr : k.opSwTempDisable ≠ k.opSecoverJmpr
  msg_jmpr : k.opSecoverMeiMsg ≠ k.opSecoverJmpr
  msg_disable : k.opSecoverMeiMsg ≠ k.opSwTempDisable

theorem modesDiffer_of_wf {c : Config} (h : c.wf = true) : ModesDiffer c.codes := by
  obtain ⟨-, -, -, -, -, hcodes, -⟩ := (config_wf_iff c).mp h
  simp only [Config.codesOk, Bool.and_eq_true, decide_eq_true_eq, List.nodup_cons, List.mem_cons, List.not_mem_nil,
    or_false, not_or] at hcodes
  obtain ⟨-, -, ⟨dj, dd, dm, ds⟩, ⟨jd, jm, js⟩, ⟨tm, ts⟩, ms, -⟩ := hcodes
  exact ⟨ds, js, ts, ms, .symm dj, .symm dd, .symm dm, .symm jd, .symm jm, .symm tm⟩

/-! ### Step 3 -/

section
variable {k : StatusCodes} (hk : ModesDiffer k) {err cur : BitVec 4} {bad enf : Bool} (he : ¬enf = true)
include hk he

theorem classifyFields_debug : classifyFields k err cur k.opDebug bad enf = .debugMode := by
  rw [classifyFields, if_neg fun h => hk.debug_sps h.left, if_neg he, if_pos rfl]

theorem classifyFields_secoverJmpr : classifyFields k err cur k.opSecoverJmpr bad enf = .secoverJmpr := by
  rw [classifyFields, if_neg fun h => hk.jmpr_sps h.left, if_neg he, if_neg hk.jmpr_debug, if_pos rfl]

theorem classifyFields_swTempDisable : classifyFields k err cur k.opSwTempDisable bad enf = .swTempDisable := by
  rw [classifyFields, if_neg fun h => hk.disable_sps h.left, if_neg he, if_neg hk.disable_debug,
    if_neg hk.disable_jmpr, if_pos rfl]

theorem classifyFields_secoverMeiMsg : classifyFields k err cur k.opSecoverMeiMsg bad enf = .secoverMeiMsg := by
  rw [classifyFields, if_neg fun h => hk.msg_sps h.left, if_neg he, if_neg hk.msg_debug, if_neg hk.msg_jmpr,
    if_neg hk.msg_disable, if_pos rfl]

end

/-- Settles O28: each clause is one step of `Classify`, on the fields at their bits. -/
theorem classifyOrder : Obligations.ClassifyOrder := by
  intro c a b hwf k err cur op enf p
  have differ : ModesDiffer k := modesDiffer_of_wf hwf
  have path : p = classifyFields k err cur op (a.getLsbD 4) enf := rfl
  rw [path]
  refine ⟨fun _ herr => classifyFields_ne_sps fun h => herr h.right, fun hop herr => classifyFields_of_sps ⟨hop, herr⟩,
    fun he h => classifyFields_of_enforcement h he, fun he hop => ?_, fun he hop => ?_, fun he hop => ?_,
    fun he hop => ?_, fun he hop h => classifyFields_of_unlisted h (Bool.eq_false_iff.mp he) hop⟩ <;>
    rw [hop]
  · exact classifyFields_debug differ (Bool.eq_false_iff.mp he)
  · exact classifyFields_secoverJmpr differ (Bool.eq_false_iff.mp he)
  · exact classifyFields_swTempDisable differ (Bool.eq_false_iff.mp he)
  · exact classifyFields_secoverMeiMsg differ (Bool.eq_false_iff.mp he)

end Sys2Proof.Machine
end

section
/-! The three status queries (43_trust.md R173, R174, R180): two register reads and the result, and the policies that the
tables of a legal configuration obey (R175, R177), which the masks reported obey with them. -/

namespace Sys2Proof.Machine

/-! ### The run of a query -/

/-- A query ends at its second register read; without a device it ends before the first. -/
theorem runCommand_beginQuery (q : Query) (s : State) :
    runCommand (beginQuery q s) =
      .next (if s.cfg.devicePresent = true then (queryResult s.advance.advance s.gatePath q).ret .success
        else s.ret .deviceNotPresent) := by
  unfold beginQuery
  split
  next present =>
    have readA : Reaches 1 (s.goto (.queryA q)) (s.advance.goto (.queryB q s.advance.stsA)) := .at_goto nofun rfl
    have readB : Reaches 1 (s.advance.goto (.queryB q s.advance.stsA))
        ((queryResult s.advance.advance s.gatePath q).ret .success) := by
      refine .at_goto nofun ?_
      rw [State.gatePath, ← s.advance_cfg, ← s.advance.advance_cfg]
      cases q <;> rfl
    exact runCommand_of_reaches (readA.trans readB) (by decide) rfl
  next absent => exact runCommand_ret s .deviceNotPresent

/-- Settles O25: the run of a query, whose result is the number of the path. -/
theorem classifyResult : Obligations.ClassifyResult := by
  refine ⟨decodeWord_encode .classify, fun s => ?_⟩
  rw [exec_eq_run, beginCommand, runCommand_beginQuery]
  rfl

/-- Settles O26: the run of a query; the table is that of the state it started in. -/
theorem hidemaskResult : Obligations.HidemaskResult := by
  refine ⟨decodeWord_encode .hidemask, fun s => ?_⟩
  have table : s.advance.advance.cfg.hideTable = s.cfg.hideTable := by rw [State.advance_cfg, State.advance_cfg]
  rw [exec_eq_run, beginCommand, runCommand_beginQuery, queryResult, table]
  rfl

/-- Settles O27: the run of a query; the table is that of the state it started in. -/
theorem allowmaskResult : Obligations.AllowmaskResult := by
  refine ⟨decodeWord_encode .allowmask, fun s => ?_⟩
  have table : s.advance.advance.cfg.allowTable = s.cfg.allowTable := by rw [State.advance_cfg, State.advance_cfg]
  rw [exec_eq_run, beginCommand, runCommand_beginQuery, queryResult, table]
  rfl

/-- What a HIDEMASK with a device reports. -/
theorem exec_hidemask_reports {s t : State} (hd : s.cfg.devicePresent = true) (h : exec .hidemask s = .next t) :
    t.res0 = s.cfg.hideTable.get s.gatePath ∧ t.res1 = pathCode s.gatePath := by
  obtain ⟨-, next⟩ := hidemaskResult
  rw [next, if_pos hd] at h
  cases h
  exact ⟨rfl, rfl⟩

/-- What an ALLOWMASK with a device reports. -/
theorem exec_allowmask_reports {s t : State} (hd : s.cfg.devicePresent = true) (h : exec .allowmask s = .next t) :
    t.res0 = s.cfg.allowTable.get s.gatePath ∧ t.res1 = pathCode s.gatePath := by
  obtain ⟨-, next⟩ := allowmaskResult
  rw [next, if_pos hd] at h
  cases h
  exact ⟨rfl, rfl⟩

/-! ### The policies of the tables -/

theorem mem_pathAll (p : Path) : p ∈ Path.all := by cases p <;> decide

theorem getElem?_pathAll (p : Path) : Path.all[(pathCode p).toNat]? = some p := by cases p <;> rfl

/-- The number says which path it is. -/
theorem pathCode_injective {p q : Path} (h : pathCode p = pathCode q) : p = q :=
  Option.some.inj ((getElem?_pathAll p).symm.trans (h ▸ getElem?_pathAll q))

theorem PathTable.fits_iff (t : PathTable) (n : Nat) : t.fits n = true ↔ ∀ p, (t.get p).toNat < 2 ^ n := by
  simp only [PathTable.fits, List.all_eq_true, decide_eq_true_eq, mem_pathAll, forall_const]

/-- The hide policy, H1 to H3 of 43_trust.md R175. -/
structure HidePolicy (c : Config) : Prop where
  fits : ∀ p, (c.hideTable.get p).toNat < 2 ^ c.nhide
  secoverJmpr : c.hideTable.secoverJmpr.toNat = 2 ^ c.nhide - 1
  debugMode : c.hideTable.debugMode.toNat = 2 ^ c.nhide - 1
  enforcement : c.hideTable.enforcementWithoutDidMsg.toNat = 2 ^ c.nhide - 1
  normal : c.hideTable.normal = 0
  error : c.hideTable.error ≠ 0 ∧ c.hideTable.error.toNat ≠ 2 ^ c.nhide - 1
  recovery : c.hideTable.recovery ≠ 0 ∧ c.hideTable.recovery.toNat ≠ 2 ^ c.nhide - 1

theorem hidePolicy_of_wf {c : Config} (h : c.wf = true) : HidePolicy c := by
  obtain ⟨-, -, -, -, -, -, hide, -⟩ := (config_wf_iff c).mp h
  simp only [Config.hideOk, Bool.and_eq_true, decide_eq_true_eq, PathTable.fits_iff, and_assoc] at hide
  obtain ⟨-, fits, jmpr, debug, enforcement, normal, error, error', recovery, recovery'⟩ := hide
  exact ⟨fits, jmpr, debug, enforcement, normal, ⟨error, error'⟩, recovery, recovery'⟩

/-- The allowance policy, A1 to A4 of 43_trust.md R177. -/
structure AllowPolicy (c : Config) : Prop where
  fits : ∀ p, (c.allowTable.get p).toNat < 2 ^ c.ncat
  endOfBoot : ∀ p, (c.allowTable.get p).getLsbD 0 = true
  normal : c.allowTable.normal.toNat = 2 ^ c.ncat - 1
  sps : c.allowTable.sps.toNat = 2 ^ c.ncat - 1
  error : c.allowTable.error = 7
  recovery : c.allowTable.recovery &&& 7 = 7 ∧ c.allowTable.recovery ≠ 7

theorem allowPolicy_of_wf {c : Config} (h : c.wf = true) : AllowPolicy c := by
  obtain ⟨-, -, -, -, -, -, -, -, allow, -⟩ := (config_wf_iff c).mp h
  simp only [Config.allowOk, Bool.and_eq_true, decide_eq_true_eq, PathTable.fits_iff, List.all_eq_true, mem_pathAll,
    forall_const, and_assoc] at allow
  obtain ⟨fits, endOfBoot, normal, sps, error, recovery⟩ := allow
  exact ⟨fits, endOfBoot, normal, sps, error, recovery⟩

/-- Settles O29: the path reported is that of the mask, and the mask is the table's. -/
theorem hidePolicyHolds : Obligations.HidePolicyHolds := by
  intro s t hwf hd h
  obtain ⟨mask, path⟩ := exec_hidemask_reports hd h
  have policy := hidePolicy_of_wf hwf
  have onPath {p : Path} (hp : t.res1 = pathCode p) : t.res0 = s.cfg.hideTable.get p := by
    rw [mask, pathCode_injective (path.symm.trans hp)]
  refine ⟨mask ▸ policy.fits _, fun hp => (onPath hp).trans policy.normal, fun hp => ?_, fun hp => ?_⟩
  · rcases hp with hp | hp | hp <;> rw [onPath hp]
    · exact policy.secoverJmpr
    · exact policy.debugMode
    · exact policy.enforcement
  · rcases hp with hp | hp <;> rw [onPath hp]
    · exact policy.error
    · exact policy.recovery

/-- Settles O30: the path reported is that of the mask, and the mask is the table's. -/
theorem allowPolicyHolds : Obligations.AllowPolicyHolds := by
  intro s t hwf hd h
  obtain ⟨mask, path⟩ := exec_allowmask_reports hd h
  have policy := allowPolicy_of_wf hwf
  have onPath {p : Path} (hp : t.res1 = pathCode p) : t.res0 = s.cfg.allowTable.get p := by
    rw [mask, pathCode_injective (path.symm.trans hp)]
  refine ⟨mask ▸ policy.endOfBoot _, mask ▸ policy.fits _, fun hp => ?_, fun hp => (onPath hp).trans policy.error,
    fun hp => ?_⟩
  · rcases hp with hp | hp <;> rw [onPath hp]
    · exact policy.normal
    · exact policy.sps
  · rw [onPath hp]
    exact policy.recovery

end Sys2Proof.Machine
end

section
/-! The gate of SEND (43_trust.md R179, R181): its two early ends, for both kinds of link, and the codes of a circular
SEND that it lets pass. -/

namespace Sys2Proof.Machine

/-! ### The early ends -/

/-- A message that the path does not allow. -/
theorem gateEnd_of_denied {s : State} (h : s.gatePasses = false) (g : GateCtx) :
    gateEnd s.afterGate g s.gatePath s.gateCategory = s.afterGate.ret .unsupported := by
  rw [gateEnd, gateAllows, (afterGate_kept s).cfg]
  exact if_neg (Bool.eq_false_iff.mp h)

/-- An allowed message on a link that is not `READY`. -/
theorem gateEnd_of_notReady {s : State} (h : s.gatePasses = true) (hl : s.lstate ≠ .ready) (g : GateCtx) :
    gateEnd s.afterGate g s.gatePath s.gateCategory = s.afterGate.ret .notReady := by
  rw [gateEnd, gateAllows, (afterGate_kept s).cfg, (afterGate_kept s).lstate]
  exact (if_pos h).trans (if_neg hl)

/-- A SEND whose gate ends the command has ended with it. -/
theorem exec_send_of_gateEnd_ret {a b : Byte} {s : State} (hd : s.cfg.devicePresent = true) {c : ResultCode}
    (h : ∀ g, gateEnd s.afterGate g s.gatePath s.gateCategory = s.afterGate.ret c) :
    exec (.send a b) s = .next (s.afterGate.ret c) := by
  obtain ⟨k, hk, hgate, -⟩ := reaches_gateEnd a b hd
  rw [exec_eq_run, beginCommand]
  exact runCommand_of_reaches (h _ ▸ hgate) (hk.trans (by decide)) rfl

/-- Settles O31: the two early ends, and that the gate only reads. The premise of R246 is not needed. -/
theorem sendGate : Obligations.SendGate := by
  intro a b s hd _
  have kept := afterGate_kept s
  exact ⟨fun denied => exec_send_of_gateEnd_ret hd (gateEnd_of_denied denied),
    fun passes hl => exec_send_of_gateEnd_ret hd (gateEnd_of_notReady passes hl), kept.trace, kept.lstate, kept.resync⟩

/-! ### Past the gate -/

/-- The codes of a circular SEND that its gate lets pass (42_cb_transport.md R145). -/
def passedCodes : List ResultCode := [.success, .notReady, .timeout, .overflow]

/-- A circular SEND past its gate: at a position of the transfer, or ended with one of those codes. -/
structure Passed (u : State) : Prop where
  busy : ∀ p, u.seq = .busy p → ∃ left, p.unsent (memRead u.msgbuf) = some left
  ended : u.seq = .idle → ∃ c ∈ passedCodes, u.result = c.code

section
variable {u : State}

theorem Passed.goto {p : Pos} {left : List (List Word)} (hp : p.unsent (memRead u.msgbuf) = some left) :
    Passed (u.goto p) :=
  ⟨fun _ hq => ⟨left, Seq.busy.inj hq ▸ hp⟩, nofun⟩

theorem Passed.ret {c : ResultCode} (hc : c ∈ passedCodes) : Passed (u.ret c) := ⟨fun _ => nofun, fun _ => ⟨c, hc, rfl⟩⟩

theorem Passed.txSendBegin (dst src : Byte) (len : Nat) : Passed (txSendBegin u dst src len) := by
  rcases txSendBegin_cases u dst src len with e | ⟨c, e⟩ <;> rw [e]
  · exact .ret (by decide)
  · exact .goto (p := .pollStart (.sendRoom c)) rfl

/-- Each step of the transfer goes on with it, or ends it with one of its codes. -/
theorem Passed.step {t : State} {p : Pos} (h : Passed u) (hq : u.seq = .busy p)
    (ha : engineAct u.advance p = .next t) : Passed t := by
  obtain ⟨left, hleft⟩ := h.busy p hq
  rw [← u.advance_msgbuf] at hleft
  obtain ⟨t', ha', hstep⟩ := engineAct_sendStep (u := u.advance) rfl hleft
  obtain rfl : t' = t := Host.Outcome.next.inj (ha'.symm.trans ha)
  cases hstep with
  | goesOn v left' q access next unsent _ _ _ _ =>
    obtain ⟨hmsg, -⟩ := access.pushes_eq
    rw [next]
    exact .goto (hmsg ▸ unsent)
  | waits w x _ _ next unsent => rw [next]; exact .goto (p := .pollNow w x) unsent
  | succeeds _ next => rw [next]; exact .ret (by decide)
  | fails c moved next cause =>
    rw [next]
    refine .ret (u := u.advance.abort c moved) ?_
    rcases cause with ⟨rfl, -⟩ | ⟨rfl, -⟩ | ⟨rfl, -⟩ <;> decide

end

/-- A circular SEND that its gate lets pass has ended with one of its codes, if it has ended. -/
theorem exec_send_passed {a b : Byte} {s t : State} (hd : s.cfg.devicePresent = true) (hk : s.cfg.kind = .circular)
    (hpass : s.gatePasses = true) (h : exec (.send a b) s = .next t) : Passed t := by
  obtain ⟨k, hle, hgate, -⟩ := reaches_gateEnd a b hd
  rw [exec_eq_run, runCommand, beginCommand, engineRun_of_reaches hgate (hle.trans (by decide))] at h
  refine engineRun_induct (fun _ _ _ hq hu ha => hu.step hq ha) ?_ h
  rw [gateEnd_afterGate hk, if_pos hpass]
  split
  · exact .txSendBegin a b s.arg0.toNat
  · exact .ret (by decide)

/-- Bit 0 of every mask allows the end-of-boot category (43_trust.md R177, R181). -/
theorem gatePasses_of_endOfBoot {s : State} (hwf : s.cfg.wf = true) (h : s.gateCategory = 0) : s.gatePasses = true := by
  rw [State.gatePasses, h]
  exact (allowPolicy_of_wf hwf).endOfBoot s.gatePath

/-- Settles O32: what the gate lets pass does not end `UNSUPPORTED`. The premise of R246 is not needed. -/
theorem endOfBootPasses : Obligations.EndOfBootPasses := by
  intro a b s hwf hd hcat
  have hpass := gatePasses_of_endOfBoot hwf hcat
  refine ⟨hpass, fun t hk _ h hidle hcode => ?_⟩
  obtain ⟨c, hc, result⟩ := (exec_send_passed hd hk hpass h).ended hidle
  obtain rfl : c = .unsupported := ResultCode.code_injective (result.symm.trans hcode)
  exact absurd hc (by decide)

end Sys2Proof.Machine
end

section
/-! Engine steps before which the environment does nothing, and the windows byte by byte (10_state.md R31,
44_doorbell.md R190, R196, R199): what lies in a window after its first bytes have been written, and the header word in
its first four. -/

namespace Sys2Proof.Machine

/-! ### Steps without a move of the environment -/

/-- Before the next `n` engine steps the schedule holds no move. -/
def QuietFor (n : Nat) (env : List (List EnvMove)) : Prop := ∀ ms ∈ env.take n, ms = []

theorem quietFor_nil (n : Nat) : QuietFor n [] := by
  intro ms h
  rw [List.take_nil] at h
  cases h

theorem quietFor_replicate (n : Nat) (env : List (List EnvMove)) : QuietFor n (List.replicate n [] ++ env) := by
  intro ms h
  rw [List.take_left' List.length_replicate] at h
  exact List.eq_of_mem_replicate h

section
variable {m n : Nat} {env : List (List EnvMove)}

theorem QuietFor.mono (h : QuietFor n env) (hm : m ≤ n) : QuietFor m env := fun ms hms =>
  h ms ((List.take_prefix_take_left hm).subset hms)

theorem QuietFor.drop (h : QuietFor (m + n) env) : QuietFor n (env.drop m) := by
  intro ms hms
  have part : (env.take (m + n)).drop m = (env.drop m).take n := by rw [List.drop_take, Nat.add_sub_cancel_left]
  exact h ms (List.drop_subset m _ (part ▸ hms))

/-- Any one of the quiet steps. -/
theorem QuietFor.at (h : QuietFor n env) (hm : m < n) : QuietFor 1 (env.drop m) :=
  (h.mono (m := m + 1) hm).drop

end

/-- The state after `n` engine steps that only let the schedule pass. -/
def State.later (u : State) (n : Nat) : State := { u with env := u.env.drop n }

theorem State.later_later (u : State) (m n : Nat) : (u.later m).later n = u.later (m + n) := by
  simp only [State.later, List.drop_drop]

theorem State.later_zero (u : State) : u.later 0 = u := rfl

theorem State.later_of_ended {u : State} (h : u.env = []) (n : Nat) : u.later n = u := by
  rw [State.later, h, List.drop_nil, ← h]

theorem QuietFor.advance {u : State} (h : QuietFor 1 u.env) : u.advance = u.later 1 := by
  cases henv : u.env with
  | nil => rw [State.advance_nil henv, State.later_of_ended henv]
  | cons ms later =>
    rw [henv] at h
    obtain rfl : ms = [] := h ms (List.mem_singleton_self ms)
    rw [State.advance_of_cons henv, State.later, henv]
    rfl

/-- A step without a move before it, from a position that is no expiry test. -/
theorem QuietFor.reaches {u t : State} {p : Pos} (h : QuietFor 1 u.env) (hp : ∀ w x, p ≠ .pollNow w x)
    (ha : engineAct ((u.later 1).goto p) p = .next t) : Reaches 1 (u.goto p) t :=
  .at_goto hp (h.advance ▸ ha)

/-- The same few steps, over and over. -/
theorem Reaches.iterate {F : Nat → State} {m n : Nat} (h : ∀ k < n, Reaches m (F k) (F (k + 1))) :
    Reaches (n * m) (F 0) (F n) := by
  induction n with
  | zero => rw [Nat.zero_mul]; exact .refl _
  | succ n ih =>
    rw [Nat.succ_mul]
    exact (ih fun k hk => h k (Nat.lt_succ_of_lt hk)).trans (h n (Nat.lt_succ_self n))

/-! ### The first bytes of a window -/

/-- A payload length has its nine bits, and the payload of the handshake fits the window (44_doorbell.md R191). -/
theorem doorbell_of_wf {c : Config} (h : c.wf = true) :
    c.dbMaxPay ≤ 511 ∧ c.dbHsPayload.length ≤ windowSize c := by
  obtain ⟨-, -, -, -, -, -, -, -, -, hbell⟩ := (config_wf_iff c).mp h
  simp only [Config.doorbellOk, Bool.and_eq_true, decide_eq_true_eq, and_assoc] at hbell
  obtain ⟨-, hmax, -, -, hfits, -⟩ := hbell
  exact ⟨hmax, hfits⟩

/-- A write behind the first bytes. -/
theorem memBytes_memWrite_succ {m : Memory} (h : m.wf = true) (k : Nat) (b : Byte) :
    memBytes (memWrite m k b) (k + 1) = memBytes m k ++ [b] := by
  rw [memBytes, List.range_succ, List.map_append, List.map_singleton, memRead_memWrite h, if_pos rfl, memBytes]
  congr 1
  refine List.map_congr_left fun i hi => ?_
  rw [memRead_memWrite h, if_neg (Nat.ne_of_lt (List.mem_range.mp hi))]

theorem memWriteList_wf {m : Memory} (h : m.wf = true) (i : Nat) (bs : List Byte) :
    Memory.wf (memWriteList m i bs) = true := by
  induction bs generalizing m i with
  | nil => exact h
  | cons b bs ih => exact ih (memWrite_wf h i b) (i + 1)

/-- One byte of a list more is one write more. -/
theorem memWrite_memWriteList_take (m : Memory) {bs : List Byte} {k : Nat} (h : k < bs.length) (i : Nat) :
    memWrite (memWriteList m i (bs.take k)) (i + k) bs[k] = memWriteList m i (bs.take (k + 1)) := by
  rw [← List.take_concat_get' bs k h, memWriteList_append, List.length_take_of_le (Nat.le_of_lt h)]
  rfl

/-- The bytes written first are those read first. -/
theorem memBytes_memWriteList {m : Memory} (h : m.wf = true) (bs : List Byte) :
    memBytes (memWriteList m 0 bs) bs.length = bs := by
  refine List.ext_getElem (memBytes_length _ _) fun k hk hk' => ?_
  rw [memBytes_getElem, memRead_memWriteList h, if_pos (by omega), Nat.sub_zero, List.getD_eq_getElem _ _ hk']

/-- The second of two equal writes changes nothing. -/
theorem memWriteList_memWriteList {m : Memory} (h : m.wf = true) (i : Nat) (bs : List Byte) :
    memWriteList (memWriteList m i bs) i bs = memWriteList m i bs := by
  have once := memWriteList_wf h i bs
  refine Memory.ext_of_wf (memWriteList_wf once i bs) once fun k => ?_
  rw [memRead_memWriteList once, memRead_memWriteList h]
  split <;> rfl

/-! ### A packet in a window -/

/-- The bytes of a packet in a window: its header word, least significant byte first, and its payload
(44_doorbell.md R190). -/
def packetBytes (hw : Word) (payload : List Byte) : List Byte := (List.range 4).map (headerByte hw) ++ payload

theorem length_packetBytes (hw : Word) (payload : List Byte) :
    (packetBytes hw payload).length = 4 + payload.length := by
  simp [packetBytes]

theorem packetBytes_header (hw : Word) (payload : List Byte) {k : Nat} (h : k < 4) :
    (packetBytes hw payload)[k]'(by rw [length_packetBytes]; omega) = headerByte hw k := by
  simp [packetBytes, List.getElem_append_left, h]

theorem packetBytes_payload (hw : Word) (payload : List Byte) {k : Nat} (h : k < payload.length) :
    (packetBytes hw payload)[4 + k]'(by rw [length_packetBytes]; omega) = payload[k] := by
  simp [packetBytes, List.getElem_append_right]

theorem windowBytes_eq_packetBytes (src dst : Byte) (bytes : Nat → Byte) (p : Packet) :
    windowBytes src dst bytes p =
      packetBytes (encodeHeader src dst (BitVec.ofNat 9 p.plen) p.mc) (packetPayload bytes p) := rfl

/-- A word is its four bytes. -/
theorem gatherHeader_headerByte (hw : Word) :
    gatherHeader (gatherHeader (gatherHeader (gatherHeader 0 0 (headerByte hw 0)) 1 (headerByte hw 1)) 2
      (headerByte hw 2)) 3 (headerByte hw 3) = hw := by
  have masks : field 0 (BitVec.allOnes 8) ||| field 8 (BitVec.allOnes 8) ||| field 16 (BitVec.allOnes 8) |||
      field 24 (BitVec.allOnes 8) = BitVec.allOnes 32 := by decide
  have bytes (k : Nat) : (headerByte hw k).setWidth 32 <<< (8 * k) = hw &&& field (8 * k) (BitVec.allOnes 8) :=
    field_extractLsb' hw (8 * k) 8
  simp only [gatherHeader, bytes, word_zero_or, ← BitVec.and_or_distrib_left, Nat.mul_zero, Nat.reduceMul, masks,
    BitVec.and_allOnes]

/-- The word that RECV gathers from the first four bytes (44_doorbell.md R199). -/
theorem gatherHeader_memRead (m : Memory) :
    gatherHeader (gatherHeader (gatherHeader (gatherHeader 0 0 (memRead m 0)) 1 (memRead m 1)) 2 (memRead m 2)) 3
      (memRead m 3) = windowHeader m := by
  simp only [gatherHeader, windowHeader, word_zero_or, Nat.mul_zero, BitVec.shiftLeft_zero, Nat.reduceMul]

/-- What is read from a window after a packet has been written into it. -/
theorem memRead_packetBytes {m : Memory} (h : m.wf = true) (hw : Word) (payload : List Byte) :
    windowHeader (memWriteList m 0 (packetBytes hw payload)) = hw ∧
      messageBytes (fun k => memRead (memWriteList m 0 (packetBytes hw payload)) (4 + k)) payload.length = payload := by
  have read {k : Nat} (hk : k < (packetBytes hw payload).length) :
      memRead (memWriteList m 0 (packetBytes hw payload)) k = (packetBytes hw payload)[k] := by
    rw [memRead_memWriteList h, if_pos (by omega), Nat.sub_zero, List.getD_eq_getElem _ _ hk]
  have length := length_packetBytes hw payload
  constructor
  · have header {k : Nat} (hk : k < 4) :
        memRead (memWriteList m 0 (packetBytes hw payload)) k = headerByte hw k := by
      rw [read (by omega), packetBytes_header hw payload hk]
    rw [← gatherHeader_memRead, header (by decide), header (by decide), header (by decide), header (by decide),
      gatherHeader_headerByte]
  · refine List.ext_getElem (length_messageBytes _ _) fun k hk hk' => ?_
    rw [← packetBytes_payload hw payload hk', ← read (by omega)]
    simp [messageBytes]

end Sys2Proof.Machine
end

section
/-! A doorbell SEND past its gate (44_doorbell.md R194, R196, R197). At every position the doorbells rung and the windows
written, followed by those of the packets still to come, are those of the plan; the window holds the first bytes of the
packet in hand. No move of the environment touches any of it. -/

namespace Sys2Proof.Machine

/-! ### From the gate to the transfer -/

/-- The verdict of the gate on a doorbell link. -/
theorem gateEnd_afterGate_doorbell {s : State} (hk : s.cfg.kind = .doorbell) (a b : Byte) (len : Nat) :
    gateEnd s.afterGate { dst := a, src := b, len := len } s.gatePath s.gateCategory =
      if s.gatePasses then
        if s.lstate = .ready then
          if dbOversize s.cfg len then s.afterGate.ret .unsupported else dbSendBegin s.afterGate a b len
        else s.afterGate.ret .notReady
      else s.afterGate.ret .unsupported := by
  have kept := afterGate_kept s
  simp only [gateEnd, sendBegin, gateAllows, kept.cfg, kept.lstate, hk, State.gatePasses]
  rfl

theorem dbOversize_eq_true {c : Config} {m len : Nat} (hm : c.dbMaxMsg = some m) (h : m < len) :
    dbOversize c len = true := by
  rw [dbOversize, hm]
  exact decide_eq_true h

theorem dbOversize_eq_false {c : Config} {len : Nat} (h : ∀ m, c.dbMaxMsg = some m → len ≤ m) :
    dbOversize c len = false := by
  unfold dbOversize
  split
  next => rfl
  next m hm => exact decide_eq_false (Nat.not_lt.mpr (h m hm))

/-- Settles O50: the size limit is tested before the first access of the transfer. The premise of R246 is not needed. -/
theorem sendOversize : Obligations.SendOversize := by
  intro a b s m hd hk hl _ hpass hmax hlen
  obtain ⟨k, hk4, hgate, -⟩ := reaches_gateEnd a b hd
  rw [gateEnd_afterGate_doorbell hk, if_pos hpass, if_pos hl, if_pos (dbOversize_eq_true hmax hlen)] at hgate
  rw [exec_eq_run, beginCommand]
  exact runCommand_of_reaches hgate (hk4.trans (by decide)) rfl

theorem afterGate_outMsg (s : State) : s.afterGate.outMsg = s.outMsg :=
  afterGate_induct (P := fun u => u.outMsg = s.outMsg) (fun u h => u.advance_outMsg.trans h) rfl

/-! ### What a position still has to write and to ring -/

/-- What a doorbell SEND is to send: the configuration, the addresses, what `MSGBUF` holds. -/
structure RingOrder where
  cfg : Config
  src : Byte
  dst : Byte
  msg : Memory

/-- The window bytes of a packet. -/
def RingOrder.window (o : RingOrder) (p : Packet) : List Byte := windowBytes o.src o.dst (memRead o.msg) p

/-- The doorbell word of a packet (44_doorbell.md R194). -/
def RingOrder.bell (o : RingOrder) (p : Packet) : Word := (packetDoorbell o.cfg p).toWord

/-- The packet in hand and those after it are still to be rung. -/
structure SendCtx.Holds (o : RingOrder) (left : List Packet) (c : SendCtx) : Prop where
  src : c.src = o.src
  dst : c.dst = o.dst
  packets : c.cur :: c.rest = left

/-- The packet in hand has been rung, those after it have not. -/
structure SendCtx.HasRung (o : RingOrder) (left : List Packet) (c : SendCtx) : Prop where
  src : c.src = o.src
  dst : c.dst = o.dst
  packets : c.rest = left

/-- The first `k` bytes of the packet in hand lie in the window. -/
def SendCtx.Written (o : RingOrder) (out : Memory) (c : SendCtx) (k : Nat) : Prop :=
  memBytes out k = (o.window c.cur).take k

/-- A wait of a doorbell transfer with the packets `left` still to be rung. -/
def Wait.rings (o : RingOrder) (left : List Packet) : Wait → Prop
  | .dbIdle c => c.Holds o left
  | .dbDone c => c.HasRung o left
  | .dbAck c => c.HasRung o left
  | _ => False

/-- A position of a doorbell transfer with `out` in the window and the packets `left` still to be rung. -/
def Pos.rings (o : RingOrder) (out : Memory) (left : List Packet) : Pos → Prop
  | .pollStart w => w.rings o left
  | .pollCond w _ => w.rings o left
  | .pollNow w _ => w.rings o left
  | .dbHeader c k => c.Holds o left ∧ k < 4 ∧ c.Written o out k
  | .dbRead c k => c.Holds o left ∧ k < c.cur.plen ∧ c.Written o out (4 + k)
  | .dbWrite c k v =>
    c.Holds o left ∧ k < c.cur.plen ∧ c.Written o out (4 + k) ∧ v = memRead o.msg (c.cur.off + k)
  | .dbRing c => c.Holds o left
  | .dbAckClear c => c.HasRung o left
  | _ => False

/-- Of the packets still to be rung, those whose window is still to be written whole. -/
def Pos.unwritten (left : List Packet) : Pos → List Packet
  | .dbRing _ => left.tail
  | _ => left

section
variable (o : RingOrder) (p : Packet)

theorem RingOrder.window_eq :
    o.window p = packetBytes (encodeHeader o.src o.dst (BitVec.ofNat 9 p.plen) p.mc) (packetPayload (memRead o.msg) p) :=
  rfl

theorem RingOrder.length_window : (o.window p).length = 4 + p.plen := by
  rw [o.window_eq, length_packetBytes, length_packetPayload]

theorem RingOrder.window_header {k : Nat} (h : k < 4) :
    (o.window p)[k]'(by rw [o.length_window]; omega) =
      headerByte (encodeHeader o.src o.dst (BitVec.ofNat 9 p.plen) p.mc) k :=
  packetBytes_header _ _ h

theorem RingOrder.window_payload {k : Nat} (h : k < p.plen) :
    (o.window p)[4 + k]'(by rw [o.length_window]; omega) = memRead o.msg (p.off + k) := by
  have inside : k < (packetPayload (memRead o.msg) p).length := by rw [length_packetPayload]; exact h
  have byte := packetBytes_payload (encodeHeader o.src o.dst (BitVec.ofNat 9 p.plen) p.mc) _ inside
  simp only [o.window_eq, byte]
  simp [packetPayload, messageBytes]

end

theorem SendCtx.Written.zero (o : RingOrder) (out : Memory) (c : SendCtx) : c.Written o out 0 := rfl

/-- The next byte of the packet goes into the window. -/
theorem SendCtx.Written.write {o : RingOrder} {out : Memory} {c : SendCtx} {k : Nat} (h : c.Written o out k)
    (hwf : out.wf = true) (hk : k < (o.window c.cur).length) :
    c.Written o (memWrite out k (o.window c.cur)[k]) (k + 1) := by
  unfold SendCtx.Written at h ⊢
  rw [memBytes_memWrite_succ hwf, h, List.take_concat_get']

/-! ### A SEND along its run -/

/-- What no step of a doorbell SEND changes, and that the window stays canonical. -/
structure RingBase (o : RingOrder) (u : State) : Prop where
  cfg : u.cfg = o.cfg
  msgbuf : u.msgbuf = o.msg
  outMsg : u.outMsg.wf = true

theorem RingBase.write {o : RingOrder} {u : State} (h : RingBase o u) (k : Nat) (v : Byte) :
    RingBase o { u with outMsg := memWrite u.outMsg k v } :=
  ⟨h.cfg, h.msgbuf, memWrite_wf h.outMsg k v⟩

/-- The doorbells `rs` and the windows `ws` are those before the SEND and those of its plan: what has been rung and
written, with what is still to come, is all of them. -/
structure Ringing (o : RingOrder) (rs : List Word) (ws : List (List Byte)) (u : State) : Prop where
  base : RingBase o u
  busy : ∀ p, u.seq = .busy p → ∃ left, p.rings o u.outMsg left ∧ Machine.rings u.trace ++ left.map o.bell = rs ∧
    windows u.trace ++ (p.unwritten left).map o.window = ws
  ended : u.seq = .idle → u.result = ResultCode.success.code → Machine.rings u.trace = rs ∧ windows u.trace = ws

theorem rings_append (es fs : List Event) : rings (es ++ fs) = rings es ++ rings fs := List.filterMap_append

theorem windows_append (es fs : List Event) : windows (es ++ fs) = windows es ++ windows fs := List.filterMap_append

section
variable {o : RingOrder} {rs : List Word} {ws : List (List Byte)} {u : State} (h : RingBase o u)
include h

theorem Ringing.goto {left : List Packet} (hrs : rings u.trace ++ left.map o.bell = rs)
    {p : Pos} (hws : windows u.trace ++ (p.unwritten left).map o.window = ws) (hp : p.rings o u.outMsg left) :
    Ringing o rs ws (u.goto p) :=
  ⟨⟨h.cfg, h.msgbuf, h.outMsg⟩, fun _ hq => ⟨left, Seq.busy.inj hq ▸ hp, hrs, Seq.busy.inj hq ▸ hws⟩, nofun⟩

/-- A SEND that ends with another code promises nothing. -/
theorem Ringing.ret {c : ResultCode} (hc : c ≠ .success) : Ringing o rs ws (u.ret c) :=
  ⟨⟨h.cfg, h.msgbuf, h.outMsg⟩, fun _ => nofun, fun _ e => absurd (ResultCode.code_injective e) hc⟩

theorem Ringing.fail {c : ResultCode} (hc : c ≠ .success) (moved : Bool) : Ringing o rs ws (u.fail c moved) :=
  .ret (u := u.abort c moved) ⟨h.cfg, h.msgbuf, h.outMsg⟩ hc

theorem Ringing.success (hrs : rings u.trace = rs) (hws : windows u.trace = ws) : Ringing o rs ws (u.ret .success) :=
  ⟨⟨h.cfg, h.msgbuf, h.outMsg⟩, fun _ => nofun, fun _ _ => ⟨hrs, hws⟩⟩

section
variable {left : List Packet} (hrs : rings u.trace ++ left.map o.bell = rs)
  (hws : windows u.trace ++ left.map o.window = ws)
include hrs hws

/-- After a packet: the next one, or the end of the SEND. -/
theorem Ringing.dbSendNext {c : SendCtx} (hc : c.HasRung o left) : Ringing o rs ws (dbSendNext u c) := by
  obtain ⟨hsrc, hdst, hrest⟩ := hc
  unfold Machine.dbSendNext
  split
  next none =>
    obtain rfl : left = [] := hrest.symm.trans none
    exact .success h (by simpa using hrs) (by simpa using hws)
  next p ps some => exact .goto (p := .pollStart _) h hrs hws ⟨hsrc, hdst, some.symm.trans hrest⟩

/-- The end of a wait. -/
theorem Ringing.waitEnd {w : Wait} (hw : w.rings o left) (r : PollEnd) : Ringing o rs ws (waitEnd u r w) := by
  cases w with
  | dbIdle c => cases r with
    | ok => exact .goto (p := .dbHeader c 0) h hrs hws ⟨hw, by decide, .zero ..⟩
    | err e => exact .fail h (c := .timeout) (by decide) _
  | dbDone c => cases r with
    | ok => exact .goto (p := .pollStart (.dbAck c)) h hrs hws hw
    | err e => exact .fail h (c := .timeout) (by decide) _
  | dbAck c => cases r with
    | ok =>
      show Ringing o rs ws (dbAckEnd u c .ok)
      rcases dbAckEnd_ok_cases u c with e | e <;> rw [e]
      · exact .goto (p := .dbAckClear c) h hrs hws hw
      · exact .fail h (by decide) _
    | err e => exact .fail h (c := .timeout) (by decide) _
  | _ => exact hw.elim

/-- With the header and `k` bytes of the payload in the window: the next byte, or the event of the whole write. -/
theorem Ringing.dbNextByte {c : SendCtx} (hc : c.Holds o left) {k : Nat} (hk : k ≤ c.cur.plen)
    (hwritten : c.Written o u.outMsg (4 + k)) : Ringing o rs ws (dbNextByte u c k) := by
  unfold Machine.dbNextByte
  split
  next more => exact .goto (p := .dbRead c k) h hrs hws ⟨hc, more, hwritten⟩
  next last =>
    obtain rfl : k = c.cur.plen := by omega
    have whole : memBytes u.outMsg (4 + c.cur.plen) = o.window c.cur := by
      rw [hwritten, List.take_of_length_le (Nat.le_of_eq (o.length_window _))]
    have bells : rings (u.emitWindow (4 + c.cur.plen)).trace ++ left.map o.bell = rs := by
      rw [State.emitWindow_trace, rings_append, ← hrs]
      exact congrArg (· ++ _) (List.append_nil _)
    refine .goto (u := u.emitWindow (4 + c.cur.plen)) (p := .dbRing c) ⟨h.cfg, h.msgbuf, h.outMsg⟩ bells ?_ hc
    rw [State.emitWindow_trace, windows_append, ← hws, ← hc.packets, whole, List.append_assoc]
    rfl

end

/-- The doorbell of a packet whose window has been written. -/
theorem Ringing.dbRing {left : List Packet} (hrs : rings u.trace ++ left.map o.bell = rs)
    (hws : windows u.trace ++ left.tail.map o.window = ws) {c : SendCtx} (hc : c.Holds o left) :
    Ringing o rs ws (dbRing u c) := by
  obtain ⟨hsrc, hdst, rfl⟩ := hc
  have base : RingBase o (u.writeDbOut (packetDoorbell u.cfg c.cur)) := ⟨h.cfg, h.msgbuf, h.outMsg⟩
  have bells : rings (u.writeDbOut (packetDoorbell u.cfg c.cur)).trace ++ c.rest.map o.bell = rs := by
    rw [State.writeDbOut_trace, rings_append, ← hrs, h.cfg, List.append_assoc]
    rfl
  have wins : windows (u.writeDbOut (packetDoorbell u.cfg c.cur)).trace ++ c.rest.map o.window = ws := by
    rw [State.writeDbOut_trace, windows_append, ← hws, List.append_assoc]
    rfl
  unfold Machine.dbRing
  dsimp only
  split
  · exact .goto (p := .pollStart _) base bells wins ⟨hsrc, hdst, rfl⟩
  · exact .dbSendNext base bells wins ⟨hsrc, hdst, rfl⟩

end

/-- One atomic step of a doorbell SEND. -/
theorem engineAct_ringing {o : RingOrder} {rs : List Word} {ws : List (List Byte)} {u t : State} (h : RingBase o u)
    {p : Pos} {left : List Packet} (hp : p.rings o u.outMsg left) (hrs : rings u.trace ++ left.map o.bell = rs)
    (hws : windows u.trace ++ (p.unwritten left).map o.window = ws) (ha : engineAct u p = .next t) :
    Ringing o rs ws t := by
  cases p with
  | pollStart w => cases ha; exact .goto (p := .pollCond w _) h hrs hws hp
  | pollCond w x =>
    cases ha
    exact pollCond_holds (.goto (p := .pollNow w x) h hrs hws hp) (fun _ => .waitEnd h hrs hws hp _)
      fun _ => .waitEnd h hrs hws hp _
  | pollNow w x =>
    cases ha
    exact pollNow_holds (.waitEnd h hrs hws hp _) (.goto (p := .pollCond w x) h hrs hws hp)
  | dbHeader c k =>
    obtain ⟨hc, hk, hwritten⟩ := hp
    rw [engineAct, dbHeader] at ha
    rw [eq_of_outWrite_next ha, hc.src, hc.dst, ← o.window_header c.cur hk]
    have written := hwritten.write h.outMsg (by rw [o.length_window]; omega)
    split
    next more => exact .goto (p := .dbHeader c (k + 1)) (h.write _ _) hrs hws ⟨hc, by omega, written⟩
    next last =>
      obtain rfl : k = 3 := by omega
      exact .dbNextByte (h.write _ _) hrs hws hc (Nat.zero_le _) written
  | dbRead c k =>
    obtain ⟨hc, hk, hwritten⟩ := hp
    cases ha
    exact .goto (p := .dbWrite c k _) h hrs hws ⟨hc, hk, hwritten, by rw [h.msgbuf]⟩
  | dbWrite c k v =>
    obtain ⟨hc, hk, hwritten, rfl⟩ := hp
    rw [engineAct, dbWrite] at ha
    rw [eq_of_outWrite_next ha, ← o.window_payload c.cur hk]
    have written := hwritten.write h.outMsg (by rw [o.length_window]; omega)
    exact .dbNextByte (h.write _ _) hrs hws hc hk written
  | dbRing c => cases ha; exact .dbRing h hrs hws hp
  | dbAckClear c =>
    cases ha
    obtain ⟨hsrc, hdst, hrest⟩ := hp
    refine .dbSendNext (u := u.clearDbIn) ⟨h.cfg, h.msgbuf, h.outMsg⟩ ?_ ?_ ⟨hsrc, hdst, hrest⟩
    · rw [State.clearDbIn_trace, rings_append, ← hrs]
      exact congrArg (· ++ _) (List.append_nil _)
    · rw [State.clearDbIn_trace, windows_append, ← hws]
      exact congrArg (· ++ _) (List.append_nil _)
  | _ => exact hp.elim

/-- A step of a doorbell SEND after the environment's moves. -/
theorem Ringing.step {o : RingOrder} {rs : List Word} {ws : List (List Byte)} {u t : State} (h : Ringing o rs ws u)
    {p : Pos} (hq : u.seq = .busy p) (ha : engineAct u.advance p = .next t) : Ringing o rs ws t := by
  obtain ⟨⟨hcfg, hmsg, hwf⟩, hbusy, -⟩ := h
  obtain ⟨left, hp, hrs, hws⟩ := hbusy p hq
  rw [← u.advance_outMsg] at hp hwf
  rw [← u.advance_trace] at hrs hws
  exact engineAct_ringing ⟨u.advance_cfg.trans hcfg, u.advance_msgbuf.trans hmsg, hwf⟩ hp hrs hws ha

/-- A transfer begins with every packet of the plan still to be written and rung. -/
theorem Ringing.dbSendBegin {o : RingOrder} {u : State} (h : RingBase o u) (len : Nat) :
    Ringing o (rings u.trace ++ (plan len o.cfg.dbMaxPay).map o.bell)
      (windows u.trace ++ (plan len o.cfg.dbMaxPay).map o.window) (dbSendBegin u o.dst o.src len) := by
  unfold Machine.dbSendBegin
  rw [h.cfg]
  split
  next none => exact .success h (by simp [none]) (by simp [none])
  next p ps some => exact .goto (p := .pollStart _) h rfl rfl ⟨rfl, rfl, some.symm⟩

/-- What a SEND issued in `s` is to send. -/
def ringOrder (a b : Byte) (s : State) : RingOrder := { cfg := s.cfg, src := b, dst := a, msg := s.msgbuf }

theorem exec_ringing {a b : Byte} {s t : State} (hk : s.cfg.kind = .doorbell) (hwf : s.outMsg.wf = true)
    (h : exec (.send a b) s = .next t) :
    Ringing (ringOrder a b s) (rings s.trace ++ (plan s.arg0.toNat s.cfg.dbMaxPay).map (ringOrder a b s).bell)
      (windows s.trace ++ (plan s.arg0.toNat s.cfg.dbMaxPay).map (ringOrder a b s).window) t := by
  rw [exec_eq_run] at h
  by_cases hd : s.cfg.devicePresent = true
  · obtain ⟨k, hle, hgate, -⟩ := reaches_gateEnd a b hd
    have kept := afterGate_kept s
    have base : RingBase (ringOrder a b s) s.afterGate := ⟨kept.cfg, kept.msgbuf, (afterGate_outMsg s).symm ▸ hwf⟩
    rw [runCommand, beginCommand, engineRun_of_reaches hgate (hle.trans (by decide))] at h
    refine engineRun_induct (fun u p v hq hu ha => hu.step hq ha) ?_ h
    rw [gateEnd_afterGate_doorbell hk]
    split
    · split
      · split
        · exact .ret base (by decide)
        · rw [← kept.trace]
          exact .dbSendBegin base s.arg0.toNat
      · exact .ret base (by decide)
    · exact .ret base (by decide)
  · have e : beginSend a b s = s.ret .deviceNotPresent := if_neg hd
    rw [beginCommand, e, runCommand_ret] at h
    cases h
    exact .ret ⟨rfl, rfl, hwf⟩ (by decide)

/-- Settles O49: at a successful end nothing is left to write or to ring. The premise of R246 is not needed. -/
theorem sendRingsThePlan : Obligations.SendRingsThePlan :=
  fun _ _ _ _ hk hwf _ h hidle hcode => (exec_ringing hk hwf h).ended hidle hcode

end Sys2Proof.Machine
end

section
/-! A doorbell SEND of one packet on a quiet link (44_doorbell.md R196, R197): four header bytes and the payload bytes go
into the window one after another, then the doorbell is rung. -/

namespace Sys2Proof.Machine

/-- `n` quiet steps on, with the bytes `bs` written into the window from its first byte on. -/
def State.filling (u : State) (n : Nat) (bs : List Byte) : State :=
  { u.later n with outMsg := memWriteList u.outMsg 0 bs }

theorem State.later_filling (u : State) (n m : Nat) (bs : List Byte) :
    (u.filling n bs).later m = u.filling (n + m) bs := by
  simp only [State.filling, State.later, List.drop_drop]

/-- The write of the next byte. -/
theorem outWrite_filling {u : State} {w : List Byte} {n k : Nat} (hk : k < w.length) (hin : k < windowSize u.cfg)
    (p : Pos) (next : State → State) :
    ((u.filling n (w.take k)).goto p).outWrite k w[k] next = .next (next ((u.filling n (w.take (k + 1))).goto p)) := by
  have byte := memWrite_memWriteList_take u.outMsg hk 0
  rw [Nat.zero_add] at byte
  rw [State.outWrite]
  refine (if_pos hin).trans ?_
  simp only [State.filling, State.goto, byte]

theorem dbNextByte_goto (u : State) (p : Pos) (c : SendCtx) (k : Nat) :
    dbNextByte (u.goto p) c k = dbNextByte u c k := by
  unfold dbNextByte
  split <;> rfl

section
variable {u : State} {c : SendCtx}

/-- The window bytes of the packet in hand, as the engine reads them from `MSGBUF`. -/
def SendCtx.windowIn (c : SendCtx) (u : State) : List Byte := windowBytes c.src c.dst (memRead u.msgbuf) c.cur

theorem SendCtx.length_windowIn (c : SendCtx) (u : State) : (c.windowIn u).length = 4 + c.cur.plen := by
  rw [SendCtx.windowIn, windowBytes_eq_packetBytes, length_packetBytes, length_packetPayload]

/-- Header byte `k` of the packet in hand. -/
theorem dbHeader_filling {k : Nat} (hk : k < 4) (n : Nat) :
    engineAct ((u.filling n ((c.windowIn u).take k)).goto (.dbHeader c k)) (.dbHeader c k) =
      .next (if k < 3 then (u.filling n ((c.windowIn u).take (k + 1))).goto (.dbHeader c (k + 1))
        else dbNextByte (u.filling n ((c.windowIn u).take (k + 1))) c 0) := by
  have length := c.length_windowIn u
  have byte : (c.windowIn u)[k] = headerByte (encodeHeader c.src c.dst (BitVec.ofNat 9 c.cur.plen) c.cur.mc) k :=
    packetBytes_header _ _ hk
  rw [engineAct, dbHeader, ← byte, outWrite_filling (by omega) (by unfold windowSize; omega)]
  split
  · rfl
  · rw [dbNextByte_goto]

/-- The whole header on a quiet link. -/
theorem reaches_dbPayload (hquiet : QuietFor 4 u.env) :
    Reaches 4 (u.goto (.dbHeader c 0)) (dbNextByte (u.filling 4 ((c.windowIn u).take 4)) c 0) := by
  have byte {k : Nat} (hk : k < 4) {t : State}
      (ht : (if k < 3 then (u.filling (k + 1) ((c.windowIn u).take (k + 1))).goto (.dbHeader c (k + 1))
        else dbNextByte (u.filling (k + 1) ((c.windowIn u).take (k + 1))) c 0) = t) :
      Reaches 1 ((u.filling k ((c.windowIn u).take k)).goto (.dbHeader c k)) t :=
    QuietFor.reaches (hquiet.at hk) nofun (by rw [State.later_filling, dbHeader_filling hk, ht])
  have first : Reaches (3 * 1) (u.goto (.dbHeader c 0)) ((u.filling 3 ((c.windowIn u).take 3)).goto (.dbHeader c 3)) :=
    .iterate (F := fun k => (u.filling k ((c.windowIn u).take k)).goto (.dbHeader c k)) fun k hk =>
      byte (by omega) (if_pos hk)
  exact first.trans (byte (by decide) rfl)

/-- Payload byte `k` on a quiet link: its read and its write. -/
theorem reaches_dbNextByte {n k : Nat} (hquiet : QuietFor (n + 2) u.env) (hfits : c.cur.plen ≤ u.cfg.dbMaxPay)
    (hk : k < c.cur.plen) :
    Reaches 2 (dbNextByte (u.filling n ((c.windowIn u).take (4 + k))) c k)
      (dbNextByte (u.filling (n + 2) ((c.windowIn u).take (4 + (k + 1)))) c (k + 1)) := by
  have length := c.length_windowIn u
  have inside : k < (packetPayload (memRead u.msgbuf) c.cur).length := by rw [length_packetPayload]; exact hk
  have byte : (c.windowIn u)[4 + k] = memRead u.msgbuf (c.cur.off + k) := by
    refine (packetBytes_payload _ _ inside).trans ?_
    simp [packetPayload, messageBytes]
  have here : dbNextByte (u.filling n ((c.windowIn u).take (4 + k))) c k =
      (u.filling n ((c.windowIn u).take (4 + k))).goto (.dbRead c k) := if_pos hk
  have read : Reaches 1 ((u.filling n ((c.windowIn u).take (4 + k))).goto (.dbRead c k))
      ((u.filling (n + 1) ((c.windowIn u).take (4 + k))).goto (.dbWrite c k (c.windowIn u)[4 + k])) :=
    QuietFor.reaches (hquiet.at (by omega)) nofun (by rw [State.later_filling, byte]; rfl)
  have write : Reaches 1
      ((u.filling (n + 1) ((c.windowIn u).take (4 + k))).goto (.dbWrite c k (c.windowIn u)[4 + k]))
      (dbNextByte (u.filling (n + 2) ((c.windowIn u).take (4 + (k + 1)))) c (k + 1)) := by
    refine QuietFor.reaches (hquiet.at (by omega)) nofun ?_
    rw [State.later_filling, engineAct, dbWrite, outWrite_filling (by omega) (by unfold windowSize; omega),
      dbNextByte_goto]
    rfl
  rw [here]
  exact read.trans write

/-- A packet goes into the window whole on a quiet link. -/
theorem reaches_dbRing (hquiet : QuietFor (4 + c.cur.plen * 2) u.env) (hfits : c.cur.plen ≤ u.cfg.dbMaxPay) :
    Reaches (4 + c.cur.plen * 2) (u.goto (.dbHeader c 0))
      (((u.filling (4 + c.cur.plen * 2) (c.windowIn u)).emitWindow (4 + c.cur.plen)).goto (.dbRing c)) := by
  have payload : Reaches (c.cur.plen * 2) (dbNextByte (u.filling 4 ((c.windowIn u).take 4)) c 0)
      (dbNextByte (u.filling (4 + c.cur.plen * 2) ((c.windowIn u).take (4 + c.cur.plen))) c c.cur.plen) :=
    .iterate (F := fun k => dbNextByte (u.filling (4 + k * 2) ((c.windowIn u).take (4 + k))) c k) fun k hk =>
      Nat.succ_mul k 2 ▸ reaches_dbNextByte (n := 4 + k * 2) (hquiet.mono (by omega)) hfits hk
  have ends : dbNextByte (u.filling (4 + c.cur.plen * 2) ((c.windowIn u).take (4 + c.cur.plen))) c c.cur.plen =
      ((u.filling (4 + c.cur.plen * 2) (c.windowIn u)).emitWindow (4 + c.cur.plen)).goto (.dbRing c) := by
    rw [dbNextByte, if_neg (Nat.lt_irrefl _), List.take_of_length_le (Nat.le_of_eq (c.length_windowIn u))]
  exact (reaches_dbPayload (hquiet.mono (by omega))).trans (ends ▸ payload)

end

/-- A message that one packet holds is sent in one packet (41_codec.md R134). -/
theorem plan_of_le {len maxpay : Nat} (h : len ≤ maxpay) :
    plan len maxpay = [{ off := 0, plen := len, mc := true }] := by
  have one : planCount len maxpay = 1 := by
    unfold planCount
    split
    next => rfl
    next some =>
      have pos : 0 < maxpay := by omega
      have first := (lt_packetCount_iff (len := len) (i := 0) pos).mpr (by omega)
      have second := (lt_packetCount_iff (len := len) (i := 1) pos).not.mpr (by omega)
      omega
  rw [plan_eq_map, one]
  simp [planPacket, one, Nat.min_eq_right h]

/-- A packet that is the whole message, on a quiet link. -/
theorem reaches_sentPacket {u : State} {c : SendCtx} (henv : u.env = []) (hwf : u.outMsg.wf = true)
    (hfits : c.cur.plen ≤ u.cfg.dbMaxPay) (hrest : c.rest = []) (hacked : c.acked = false) :
    Reaches (4 + c.cur.plen * 2 + 1) (u.goto (.dbHeader c 0))
      { u with
        outMsg := memWriteList u.outMsg 0 (c.windowIn u)
        dbOut := packetDoorbell u.cfg c.cur
        trace := u.trace ++ [.writeWin (c.windowIn u), .writeReg .dbOut (packetDoorbell u.cfg c.cur).toWord]
        result := ResultCode.success.code
        seq := .idle } := by
  have quiet (n : Nat) : QuietFor n u.env := henv ▸ quietFor_nil n
  have window : memBytes (memWriteList u.outMsg 0 (c.windowIn u)) (4 + c.cur.plen) = c.windowIn u := by
    rw [← c.length_windowIn u]
    exact memBytes_memWriteList hwf _
  refine (reaches_dbRing (quiet _) hfits).trans (QuietFor.reaches ((quiet _).at (Nat.lt_succ_self _)) nofun ?_)
  rw [engineAct, dbRing, State.goto_cfg]
  simp only [hacked, Bool.false_eq_true, if_false, dbSendNext, hrest, State.filling, State.later, henv, List.drop_nil,
    State.writeDbOut, State.emitWindow, State.emit, State.ret, State.goto, window, List.append_assoc,
    List.cons_append, List.nil_append]

/-- The locals of a SEND whose message is one packet. -/
def onePacket (a b : Byte) (len : Nat) : SendCtx where
  dst := a
  src := b
  cur := { off := 0, plen := len, mc := true }
  rest := []
  acked := false
  moved := false

/-- Settles O48: the gate, the look at the doorbell, and the packet. The premise of R246 is not needed. -/
theorem sendDoorbellPacket : Obligations.SendDoorbellPacket := by
  intro a b s henv hd hk hl _ hpass hidle hwf hlen hmax bytes d
  have still : s.afterGate = s := by simp only [State.afterGate, State.advance_nil henv, ite_self]
  have start : dbSendBegin s a b s.arg0.toNat = s.poll (.dbIdle (onePacket a b s.arg0.toNat)) := by
    rw [dbSendBegin, plan_of_le hlen]
    rfl
  obtain ⟨k, hk4, hgate, -⟩ := reaches_gateEnd a b hd
  rw [gateEnd_afterGate_doorbell hk, if_pos hpass, if_pos hl, dbOversize_eq_false hmax, if_neg Bool.false_ne_true, still,
    start] at hgate
  have look := reaches_waitEnd_of_first (s := s) (w := .dbIdle (onePacket a b s.arg0.toNat))
    (by rw [State.advance_nil henv, State.advance_nil henv]; exact if_neg (Bool.eq_false_iff.mp hidle))
  rw [State.advance_nil henv, State.advance_nil henv] at look
  have sent := reaches_sentPacket (c := onePacket a b s.arg0.toNat) henv hwf hlen rfl rfl
  have steps : k + (2 + (4 + s.arg0.toNat * 2 + 1)) ≤ 2 ^ 64 := by
    have := s.arg0.isLt
    omega
  rw [exec_eq_run]
  exact runCommand_of_reaches (hgate.trans (look.trans sent)) steps rfl

end Sys2Proof.Machine
end

section
/-! A doorbell RECV of the packets that a coprocessor posts (44_doorbell.md R199, R200): four header bytes are read, the
length checks are made, the payload is copied up to the capacity, `DB_IN` is cleared. -/

namespace Sys2Proof.Machine

/-! ### The report of a RECV -/

/-- More bytes after those seen: as many as fit are written behind the others. -/
theorem Stored.append {max n : Nat} {old m : Memory} {seen : List Byte} {small : Bool}
    (h : Stored max old seen n small m) (more : List Byte) :
    Stored max old (seen ++ more) (n + min more.length (max - n))
      (small || decide (min more.length (max - n) < more.length))
      (memWriteList m n (more.take (min more.length (max - n)))) := by
  obtain ⟨hcount, hsmall, hbuffer⟩ := h
  refine ⟨?_, ?_, ?_⟩
  · rw [List.length_append]; omega
  · rw [hsmall, List.length_append, ← Bool.decide_or, decide_eq_decide]; omega
  · have start : 0 + (seen.take max).length = n := by rw [List.length_take, Nat.zero_add, hcount, Nat.min_comm]
    have room : max - seen.length = max - n := by omega
    rw [List.take_append, memWriteList_append, ← hbuffer, start, room, Nat.min_comm more.length,
      ← List.take_eq_take_min]

/-- The locals of a RECV between two packets, with `m` in `MSGBUF` and the bytes `seen` behind it. -/
structure RecvCtx.Seen (max : Nat) (old : Memory) (seen : List Byte) (m : Memory) (c : RecvCtx) : Prop where
  capacity : c.max = max
  total : c.total = seen.length
  stored : Stored max old seen c.n c.small m

theorem recvStart_seen (blk : Bool) (max : Nat) (old : Memory) : (recvStart blk max).Seen max old [] old :=
  ⟨rfl, rfl, .nil max old⟩

/-- The end of a RECV that has seen the bytes of a message and stored them up to its capacity. -/
theorem recvDone_of_seen {v : State} {c : RecvCtx} {max : Nat} {old : Memory} {bytes : List Byte}
    (h : c.Seen max old bytes v.msgbuf) (short : bytes.length < 2 ^ 32) (hw : Word) :
    v.recvDone c hw =
      { v with
        msgbuf := memWriteList old 0 (bytes.take max)
        res0 := BitVec.ofNat 32 (min bytes.length max)
        res1 := hw
        res2 := BitVec.ofNat 32 bytes.length
        result := if bytes.length ≤ max then ResultCode.success.code else ResultCode.bufferTooSmall.code
        seq := .idle } := by
  obtain ⟨-, total, hcount, hsmall, hbuffer⟩ := h
  have code : (if c.small then ResultCode.bufferTooSmall else .success).code =
      if bytes.length ≤ max then ResultCode.success.code else ResultCode.bufferTooSmall.code := by
    rw [hsmall]
    by_cases fits : bytes.length ≤ max
    · rw [if_pos fits, decide_eq_false (Nat.not_lt.mpr fits)]; rfl
    · rw [if_neg fits, decide_eq_true (Nat.lt_of_not_le fits)]; rfl
  simp only [State.recvDone, State.ret, total, if_pos short, code, hcount, ← hbuffer]

/-! ### The header -/

theorem dbInNextByte_goto (u : State) (p : Pos) (c : RecvCtx) (hw : Word) (k : Nat) :
    dbInNextByte (u.goto p) c hw k = dbInNextByte u c hw k := by
  unfold dbInNextByte
  split <;> [split; skip] <;> rfl

theorem dbInCheck_goto (u : State) (p : Pos) (c : RecvCtx) (d : Doorbell) (hw : Word) :
    dbInCheck (u.goto p) c d hw = dbInCheck u c d hw := by
  rw [dbInCheck, dbInNextByte_goto]
  rfl

section
variable {u : State} {c : RecvCtx}

/-- Header byte `k` as the engine reads it. -/
theorem dbInHeader_of_lt {k : Nat} (hk : k < 4) (d : Doorbell) (acc : Word) :
    engineAct (u.goto (.dbInHeader c d k acc)) (.dbInHeader c d k acc) =
      .next (if k < 3 then u.goto (.dbInHeader c d (k + 1) (gatherHeader acc k (memRead u.inMsg k)))
        else dbInCheck u c d (gatherHeader acc k (memRead u.inMsg k))) := by
  have inside : k < windowSize u.cfg := by unfold windowSize; omega
  rw [engineAct, dbInHeader, State.inRead]
  refine (if_pos inside).trans ?_
  split
  · rfl
  · rw [dbInCheck_goto]
    rfl

/-- The whole header on a quiet link. -/
theorem reaches_dbInCheck (hquiet : QuietFor 4 u.env) (d : Doorbell) :
    Reaches 4 (u.goto (.dbInHeader c d 0 0)) (dbInCheck (u.later 4) c d (windowHeader u.inMsg)) := by
  have byte {k : Nat} (hk : k < 4) {acc : Word} {t : State}
      (ht : (if k < 3 then
          (u.later (k + 1)).goto (.dbInHeader c d (k + 1) (gatherHeader acc k (memRead u.inMsg k)))
        else dbInCheck (u.later (k + 1)) c d (gatherHeader acc k (memRead u.inMsg k))) = t) :
      Reaches 1 ((u.later k).goto (.dbInHeader c d k acc)) t :=
    QuietFor.reaches (hquiet.at hk) nofun (by rw [State.later_later, dbInHeader_of_lt hk]; exact congrArg _ ht)
  have all := (byte (k := 0) (acc := 0) (by decide) rfl).trans
    ((byte (k := 1) (by decide) rfl).trans ((byte (k := 2) (by decide) rfl).trans (byte (k := 3) (by decide) rfl)))
  rw [gatherHeader_memRead] at all
  exact all

/-! ### The payload -/

/-- The payload that lies in a window behind the header `hw`. -/
def inboundPayload (m : Memory) (hw : Word) : List Byte := messageBytes (fun k => memRead m (4 + k)) (headerLen hw)

theorem length_inboundPayload (m : Memory) (hw : Word) : (inboundPayload m hw).length = headerLen hw :=
  length_messageBytes _ _

/-- How many payload bytes of a packet a RECV has room for. -/
def RecvCtx.copied (c : RecvCtx) (hw : Word) : Nat := min (headerLen hw) (c.max - c.n)

/-- `n` quiet steps on, with the bytes `bs` written to `MSGBUF` from index `i` on. -/
def State.copying (u : State) (n i : Nat) (bs : List Byte) : State :=
  { u.later n with msgbuf := memWriteList u.msgbuf i bs }

theorem State.later_copying (u : State) (n m i : Nat) (bs : List Byte) :
    (u.copying n i bs).later m = u.copying (n + m) i bs := by
  simp only [State.copying, State.later, List.drop_drop]

/-- Payload byte `k` on a quiet link, with room for it: its read and its write. -/
theorem reaches_dbInNextByte {hw : Word} {n k : Nat} (hquiet : QuietFor (n + 2) u.env)
    (hfits : headerLen hw ≤ u.cfg.dbMaxPay) (hk : k < c.copied hw) :
    Reaches 2
      (dbInNextByte (u.copying n c.n ((inboundPayload u.inMsg hw).take k)) { c with n := c.n + k } hw k)
      (dbInNextByte (u.copying (n + 2) c.n ((inboundPayload u.inMsg hw).take (k + 1))) { c with n := c.n + (k + 1) } hw
        (k + 1)) := by
  obtain ⟨hlen, hroom⟩ : k < headerLen hw ∧ c.n + k < c.max := by unfold RecvCtx.copied at hk; omega
  have length := length_inboundPayload u.inMsg hw
  have byte : memRead u.inMsg (4 + k) = (inboundPayload u.inMsg hw)[k] := by simp [inboundPayload, messageBytes]
  have stored := memWrite_memWriteList_take u.msgbuf (length.symm ▸ hlen) c.n
  have here : dbInNextByte (u.copying n c.n ((inboundPayload u.inMsg hw).take k)) { c with n := c.n + k } hw k =
      (u.copying n c.n ((inboundPayload u.inMsg hw).take k)).goto (.dbInRead { c with n := c.n + k } hw k) := by
    rw [dbInNextByte]
    exact (if_pos hlen).trans (if_pos hroom)
  have read : Reaches 1
      ((u.copying n c.n ((inboundPayload u.inMsg hw).take k)).goto (.dbInRead { c with n := c.n + k } hw k))
      ((u.copying (n + 1) c.n ((inboundPayload u.inMsg hw).take k)).goto
        (.dbInWrite { c with n := c.n + k } hw k (memRead u.inMsg (4 + k)))) := by
    refine QuietFor.reaches (hquiet.at (by omega)) nofun ?_
    have inside : 4 + k < windowSize u.cfg := by unfold windowSize; omega
    rw [State.later_copying, engineAct, dbInRead, State.inRead]
    exact if_pos inside
  have write : Reaches 1
      ((u.copying (n + 1) c.n ((inboundPayload u.inMsg hw).take k)).goto
        (.dbInWrite { c with n := c.n + k } hw k (memRead u.inMsg (4 + k))))
      (dbInNextByte (u.copying (n + 2) c.n ((inboundPayload u.inMsg hw).take (k + 1))) { c with n := c.n + (k + 1) } hw
        (k + 1)) := by
    refine QuietFor.reaches (hquiet.at (by omega)) nofun ?_
    rw [State.later_copying, engineAct, dbInWrite, byte, ← dbInNextByte_goto (u.copying (n + 2) _ _), State.copying,
      State.copying, ← stored]
    rfl
  rw [here]
  exact read.trans write

/-- The payload of a packet is copied up to the capacity on a quiet link. -/
theorem reaches_dbInClear {hw : Word} {n : Nat} (hquiet : QuietFor (n + c.copied hw * 2) u.env)
    (hfits : headerLen hw ≤ u.cfg.dbMaxPay) :
    Reaches (c.copied hw * 2) (dbInNextByte (u.later n) c hw 0)
      ((u.copying (n + c.copied hw * 2) c.n ((inboundPayload u.inMsg hw).take (c.copied hw))).goto
        (.dbInClear { c with n := c.n + c.copied hw, small := c.small || decide (c.copied hw < headerLen hw) } hw)) := by
  have payload : Reaches (c.copied hw * 2) (dbInNextByte (u.later n) c hw 0)
      (dbInNextByte (u.copying (n + c.copied hw * 2) c.n ((inboundPayload u.inMsg hw).take (c.copied hw)))
        { c with n := c.n + c.copied hw } hw (c.copied hw)) :=
    .iterate (F := fun k => dbInNextByte (u.copying (n + k * 2) c.n ((inboundPayload u.inMsg hw).take k))
      { c with n := c.n + k } hw k) fun k hk =>
        Nat.succ_mul k 2 ▸ reaches_dbInNextByte (n := n + k * 2) (hquiet.mono (by omega)) hfits hk
  have ends (v : State) : dbInNextByte v { c with n := c.n + c.copied hw } hw (c.copied hw) = v.goto
      (.dbInClear { c with n := c.n + c.copied hw, small := c.small || decide (c.copied hw < headerLen hw) } hw) := by
    by_cases part : c.copied hw < headerLen hw
    · have full : ¬ c.n + c.copied hw < c.max := by unfold RecvCtx.copied at part ⊢; omega
      rw [dbInNextByte, decide_eq_true part, Bool.or_true]
      exact (if_pos part).trans (if_neg full)
    · rw [dbInNextByte, decide_eq_false part, Bool.or_false]
      exact if_neg part
  exact ends _ ▸ payload

/-! ### One packet -/

/-- The locals of a RECV after a packet. -/
def RecvCtx.afterPacket (c : RecvCtx) (hw : Word) : RecvCtx :=
  { c with
    n := c.n + c.copied hw
    small := c.small || decide (c.copied hw < headerLen hw)
    total := c.total + headerLen hw
    first := false
    moved := true }

/-- The state after the packet with the header `hw` in the window. -/
def State.afterPacket (u : State) (c : RecvCtx) (hw : Word) : State :=
  (u.copying (5 + 2 * c.copied hw) c.n ((inboundPayload u.inMsg hw).take (c.copied hw))).clearDbIn

/-- A packet that passes the length checks is read, copied and consumed on a quiet link. -/
theorem reaches_afterPacket {hw : Word} (hhw : windowHeader u.inMsg = hw)
    (hquiet : QuietFor (5 + 2 * c.copied hw) u.env) {d : Doorbell}
    (hok : doorbellHeaderOk u.cfg d (decodeHeader hw) = true) :
    Reaches (5 + 2 * c.copied hw) (u.goto (.dbInHeader c d 0 0))
      (if (decodeHeader hw).mc then (u.afterPacket c hw).recvDone (c.afterPacket hw) hw
        else (u.afterPacket c hw).poll (.dbEvent (c.afterPacket hw))) := by
  have fits : headerLen hw ≤ u.cfg.dbMaxPay := by
    simp only [doorbellHeaderOk, Bool.and_eq_true, decide_eq_true_eq] at hok
    exact hok.left
  have header := reaches_dbInCheck (c := c) (hquiet.mono (by omega)) d
  rw [hhw, dbInCheck, if_pos (show doorbellHeaderOk (u.later 4).cfg d _ = true from hok)] at header
  have payload := reaches_dbInClear (c := c) (hw := hw) (n := 4) (hquiet.mono (by omega)) fits
  have clear : Reaches 1 _ _ := QuietFor.reaches
    (u := u.copying (4 + c.copied hw * 2) c.n ((inboundPayload u.inMsg hw).take (c.copied hw)))
    (p := .dbInClear { c with n := c.n + c.copied hw, small := c.small || decide (c.copied hw < headerLen hw) } hw)
    (hquiet.at (by omega)) nofun rfl
  have steps : 4 + (c.copied hw * 2 + 1) = 5 + 2 * c.copied hw := by omega
  have run := header.trans (payload.trans clear)
  rw [State.later_copying, Nat.add_assoc 4, steps] at run
  exact run

end

theorem RecvCtx.Seen.afterPacket {max : Nat} {old m : Memory} {seen : List Byte} {c : RecvCtx}
    (h : c.Seen max old seen m) {hw : Word} {payload : List Byte} (hlen : payload.length = headerLen hw) :
    (c.afterPacket hw).Seen max old (seen ++ payload) (memWriteList m c.n (payload.take (c.copied hw))) := by
  obtain ⟨rfl, total, stored⟩ := h
  have more := stored.append payload
  rw [hlen] at more
  refine ⟨rfl, ?_, more⟩
  rw [List.length_append, hlen, ← total]
  rfl

/-! ### RECV up to its first event -/

/-- A RECV that finds an event at its first look. -/
theorem reaches_dbEventEnd (blk : Bool) {s : State} (hd : s.cfg.devicePresent = true) (hk : s.cfg.kind = .doorbell)
    (hl : s.lstate = .ready) (hbusy : s.advance.advance.dbIn.busy = true) :
    Reaches 2 (beginRecv blk s) (dbEventEnd s.advance.advance (recvStart blk s.arg0.toNat) .ok) := by
  have start : beginRecv blk s = s.poll (.dbEvent (recvStart blk s.arg0.toNat)) := by
    rw [beginRecv, if_pos hd, if_pos hl, hk]
  rw [start]
  exact reaches_waitEnd_of_first (if_pos hbusy)

/-- A payload event: RECV goes on to its header. -/
theorem reaches_dbInHeader (blk : Bool) {s : State} (henv : s.env = []) (hd : s.cfg.devicePresent = true)
    (hk : s.cfg.kind = .doorbell) (hl : s.lstate = .ready) (hbusy : s.dbIn.busy = true)
    (hproto : s.dbIn.proto = s.cfg.dbProtoPayload) :
    Reaches 2 (beginRecv blk s) (s.goto (.dbInHeader (recvStart blk s.arg0.toNat) s.dbIn 0 0)) := by
  have still : s.advance.advance = s := by rw [State.advance_nil henv, State.advance_nil henv]
  have look := reaches_dbEventEnd blk hd hk hl (still.symm ▸ hbusy)
  rw [still, dbEventEnd, if_pos hproto] at look
  exact look

/-- A RECV that fails for what it has read (60_exceptions.md R223, R230). -/
theorem recvFail_protocolError (u : State) (moved : Bool) :
    u.recvFail .protocolError moved =
      { u with res0 := 0, resync := true, result := ResultCode.protocolError.code, seq := .idle } := by
  simp only [State.recvFail, State.fail, State.abort, State.ret, decide_true, Bool.or_true]
  rfl

/-- Settles O57: the protocol test, and the length checks. The premise of R246 is not needed. -/
theorem recvWrongProtocol : Obligations.RecvWrongProtocol := by
  intro blk s hd hk hl _
  constructor
  · intro u hbusy hproto
    have look := reaches_dbEventEnd blk hd hk hl hbusy
    have proto : s.advance.advance.dbIn.proto ≠ s.advance.advance.cfg.dbProtoPayload := by
      rw [State.advance_cfg, State.advance_cfg]
      exact hproto
    rw [dbEventEnd, if_neg proto] at look
    rw [exec_eq_run, beginCommand, runCommand_of_reaches look (by decide) rfl, recvFail_protocolError]
  · intro n henv hbusy hproto hbad
    have quiet : QuietFor 4 s.env := henv ▸ quietFor_nil 4
    have header := reaches_dbInCheck (c := recvStart blk s.arg0.toNat) quiet s.dbIn
    have bad : doorbellHeaderOk s.cfg s.dbIn (decodeHeader (windowHeader s.inMsg)) = false := by
      rw [doorbellHeaderOk, ← Bool.decide_and]
      exact decide_eq_false (by omega)
    rw [State.later_of_ended henv, dbInCheck, bad, if_neg Bool.false_ne_true] at header
    have run := (reaches_dbInHeader blk henv hd hk hl hbusy hproto).trans header
    rw [exec_eq_run, beginCommand, runCommand_of_reaches run (by decide) rfl, recvFail_protocolError]

/-- Settles O56: the look, and the one packet. The premise of R246 is not needed. -/
theorem recvDoorbellPacket : Obligations.RecvDoorbellPacket := by
  intro blk s henv hd hk hl _ hbusy hproto hw n hmc hfits hlen
  have ok : doorbellHeaderOk s.cfg s.dbIn (decodeHeader hw) = true := by
    rw [doorbellHeaderOk, ← Bool.decide_and]
    exact decide_eq_true ⟨hfits, hlen⟩
  have short : n < 2 ^ 32 := Nat.lt_of_lt_of_le (decodeHeader hw).len.isLt (by decide)
  have copied : (recvStart blk s.arg0.toNat).copied hw ≤ n := Nat.min_le_left _ _
  have packet := reaches_afterPacket (u := s) (c := recvStart blk s.arg0.toNat) (hw := hw) rfl (henv ▸ quietFor_nil _) ok
  rw [if_pos hmc] at packet
  have run := (reaches_dbInHeader blk henv hd hk hl hbusy hproto).trans packet
  have length := length_inboundPayload s.inMsg hw
  have seen := (recvStart_seen blk s.arg0.toNat s.msgbuf).afterPacket length
  rw [exec_eq_run, beginCommand, runCommand_of_reaches run (by omega) rfl, recvDone_of_seen seen (length ▸ short),
    List.nil_append, length]
  simp only [State.afterPacket, State.copying, State.later, henv, List.drop_nil, State.clearDbIn, State.emit]
  rfl

end Sys2Proof.Machine
end

section
/-! A doorbell RECV of a whole message (44_doorbell.md R198, R199) whose packets the coprocessor posts one by one: each is
posted at the look for it, and nothing happens while it is read, copied and consumed. -/

namespace Sys2Proof.Machine

/-! ### The coprocessor posts a packet -/

/-- The state with the schedule `env` still to come. -/
def State.withEnv (u : State) (env : List (List EnvMove)) : State := { u with env := env }

theorem advance_eq_withEnv {u : State} {ms : List EnvMove} {env : List (List EnvMove)} (h : u.env = ms :: env) :
    u.advance = (u.withEnv env).envMoves ms :=
  State.advance_of_cons h

theorem State.envMoves_append (u : State) (xs ys : List EnvMove) :
    u.envMoves (xs ++ ys) = (u.envMoves xs).envMoves ys := by
  induction xs generalizing u with
  | nil => rfl
  | cons m xs ih => exact ih (u.envMove m)

/-- What a coprocessor finds that may post a packet (20_memory.md R72). -/
structure State.Postable (u : State) : Prop where
  kind : u.cfg.kind = .doorbell
  idle : u.dbIn.busy = false
  inMsg : u.inMsg.wf = true

/-- The bytes of a packet, written one after another. -/
theorem envMoves_writeInMsg {u : State} (h : u.Postable) {i : Nat} {bs : List Byte}
    (hin : i + bs.length ≤ windowSize u.cfg) :
    u.envMoves ((bs.zipIdx i).map fun x => .writeInMsg x.2 x.1) = { u with inMsg := memWriteList u.inMsg i bs } := by
  induction bs generalizing i u with
  | nil => rfl
  | cons b bs ih =>
    rw [List.length_cons] at hin
    have inside : u.dbIn.busy = false ∧ i < windowSize u.cfg := ⟨h.idle, by omega⟩
    have one : u.envMove (.writeInMsg i b) = { u with inMsg := memWrite u.inMsg i b } := by
      rw [State.envMove, State.whenDoorbell, if_pos h.kind, if_pos inside]
    rw [List.zipIdx_cons, List.map_cons, State.envMoves_cons, one,
      ih (u := { u with inMsg := memWrite u.inMsg i b }) ⟨h.kind, h.idle, memWrite_wf h.inMsg i b⟩
        (by show i + 1 + bs.length ≤ windowSize u.cfg; omega)]
    rfl

/-- The doorbell that announces a packet of `n` window bytes. -/
def postedDoorbell (c : Config) (n : Nat) : Doorbell :=
  { len := BitVec.ofNat 10 n, proto := c.dbProtoPayload, subcmd := 0, busy := true }

/-- The state after the packet `p` has been posted. -/
def State.posted (u : State) (p : List Byte) : State :=
  { u with inMsg := memWriteList u.inMsg 0 p, dbIn := postedDoorbell u.cfg p.length }

theorem envMoves_postPacket {u : State} (h : u.Postable) {p : List Byte} (hin : p.length ≤ windowSize u.cfg) :
    u.envMoves (postPacket u.cfg p) = u.posted p := by
  rw [postPacket, State.envMoves_append, envMoves_writeInMsg h (by rwa [Nat.zero_add])]
  show State.envMove { u with inMsg := memWriteList u.inMsg 0 p } (.postIn (postedDoorbell u.cfg p.length).toWord) = _
  rw [State.envMove, State.whenDoorbell, if_pos (by exact h.kind), if_pos (by exact h.idle), Doorbell.ofWord_toWord]
  rfl

/-! ### One packet of an inbound message -/

section
variable {u : State} {c : RecvCtx} {hw : Word} {bs : List Byte}

/-- The window bytes of a packet pass the length checks and give its payload back. -/
theorem posted_window (hwf : u.inMsg.wf = true) (hlen : headerLen hw = bs.length) (hmax : u.cfg.dbMaxPay ≤ 511)
    (hfits : bs.length ≤ u.cfg.dbMaxPay) :
    windowHeader (u.posted (packetBytes hw bs)).inMsg = hw ∧
      inboundPayload (u.posted (packetBytes hw bs)).inMsg hw = bs ∧
      doorbellHeaderOk u.cfg (u.posted (packetBytes hw bs)).dbIn (decodeHeader hw) = true := by
  obtain ⟨header, payload⟩ := memRead_packetBytes hwf hw bs
  refine ⟨header, by rw [inboundPayload, hlen]; exact payload, ?_⟩
  have length : (BitVec.ofNat 10 (packetBytes hw bs).length).toNat = 4 + bs.length := by
    rw [length_packetBytes, BitVec.toNat_ofNat, Nat.mod_eq_of_lt (by omega)]
  have agrees : (decodeHeader hw).len.toNat = bs.length := hlen
  rw [doorbellHeaderOk, ← Bool.decide_and, agrees]
  exact decide_eq_true ⟨hfits, length⟩

/-- The state after a posted packet has been received, `env` being what is left of the schedule. -/
def State.received (u : State) (c : RecvCtx) (hw : Word) (bs : List Byte) (env : List (List EnvMove)) : State :=
  { u with
    msgbuf := memWriteList u.msgbuf c.n (bs.take (c.copied hw))
    inMsg := memWriteList u.inMsg 0 (packetBytes hw bs)
    dbIn := Doorbell.zero
    trace := u.trace ++ [.writeReg .dbIn 0]
    env := env }

/-- A packet is posted at the look for it and received. -/
theorem reaches_received {env : List (List EnvMove)} (h : u.Postable) (hlen : headerLen hw = bs.length)
    (hmax : u.cfg.dbMaxPay ≤ 511) (hfits : bs.length ≤ u.cfg.dbMaxPay)
    (henv : u.env =
      [] :: postPacket u.cfg (packetBytes hw bs) :: (List.replicate (5 + 2 * c.copied hw) [] ++ env)) :
    Reaches (2 + (5 + 2 * c.copied hw)) (u.poll (.dbEvent c))
      (if (decodeHeader hw).mc then (u.received c hw bs env).recvDone (c.afterPacket hw) hw
        else (u.received c hw bs env).poll (.dbEvent (c.afterPacket hw))) := by
  have size : (packetBytes hw bs).length ≤ windowSize u.cfg := by rw [length_packetBytes, windowSize]; omega
  have look : u.advance.advance =
      (u.withEnv (List.replicate (5 + 2 * c.copied hw) [] ++ env)).posted (packetBytes hw bs) := by
    rw [advance_eq_withEnv henv, State.envMoves_nil, advance_eq_withEnv (env := _ ++ env) rfl]
    exact envMoves_postPacket (u := u.withEnv (List.replicate (5 + 2 * c.copied hw) [] ++ env)) ⟨h.kind, h.idle, h.inMsg⟩
      size
  have event := reaches_waitEnd_of_first (s := u) (w := .dbEvent c) (by rw [look]; rfl)
  rw [look, waitEnd, dbEventEnd, if_pos (by rfl)] at event
  obtain ⟨header, payload, ok⟩ := posted_window
    (u := u.withEnv (List.replicate (5 + 2 * c.copied hw) [] ++ env)) h.inMsg hlen hmax hfits
  have packet := reaches_afterPacket (c := c) header (quietFor_replicate _ _) ok
  have after : ((u.withEnv (List.replicate (5 + 2 * c.copied hw) [] ++ env)).posted
      (packetBytes hw bs)).afterPacket c hw = u.received c hw bs env := by
    rw [State.afterPacket, payload]
    simp only [State.copying, State.later, State.posted, State.withEnv, List.drop_left' List.length_replicate]
    rfl
  rw [after] at packet
  exact event.trans packet

end

/-! ### A whole inbound message -/

theorem headerLen_encodeHeader (src dst : Byte) {n : Nat} (h : n ≤ 511) (mc : Bool) :
    headerLen (encodeHeader src dst (BitVec.ofNat 9 n) mc) = n := by
  rw [headerLen, decodeHeader_encodeHeader]
  exact Nat.mod_eq_of_lt (Nat.lt_succ_of_le h)

/-- The packet of a chunk that is not the last. -/
theorem inboundPackets_cons (src dst : Byte) (bs : List Byte) (chunks : List (List Byte)) (final : List Byte) :
    inboundPackets src dst (bs :: (chunks ++ [final])) =
      packetBytes (encodeHeader src dst (BitVec.ofNat 9 bs.length) false) bs ::
        inboundPackets src dst (chunks ++ [final]) := by
  cases chunks <;> rfl

/-- The schedule of a packet and of those after it, as the RECV with the locals `c` meets it. -/
theorem inboundSchedule_cons (cfg : Config) (c : RecvCtx) {hw : Word} {bs : List Byte} (hlen : headerLen hw = bs.length)
    (ps : List (List Byte)) :
    inboundSchedule cfg (c.max - c.n) (packetBytes hw bs :: ps) =
      [] :: postPacket cfg (packetBytes hw bs) ::
        (List.replicate (5 + 2 * c.copied hw) [] ++
          inboundSchedule cfg ((c.afterPacket hw).max - (c.afterPacket hw).n) ps) := by
  have payload : (packetBytes hw bs).length - 4 = headerLen hw := by rw [length_packetBytes, hlen]; omega
  rw [inboundSchedule, payload, ← Nat.sub_add_eq]
  rfl

/-- The state after the packets have been received, with `m` in `MSGBUF` and the schedule at its end. -/
def State.drained (u : State) (packets : List (List Byte)) (m : Memory) : State :=
  { u with
    msgbuf := m
    inMsg := packets.foldl (fun w p => memWriteList w 0 p) u.inMsg
    dbIn := Doorbell.zero
    trace := u.trace ++ packets.map fun _ => .writeReg .dbIn 0
    env := [] }

theorem drained_received (u : State) (c : RecvCtx) (hw : Word) (bs : List Byte) (env : List (List EnvMove))
    (ps : List (List Byte)) (m : Memory) :
    (u.received c hw bs env).drained ps m = u.drained (packetBytes hw bs :: ps) m := by
  simp only [State.drained, State.received, List.foldl_cons, List.map_cons, List.append_assoc, List.singleton_append]

/-- The message is received packet by packet, the last one ends the RECV. -/
theorem reaches_drained (src dst : Byte) (final : List Byte) {max : Nat} {old : Memory} (chunks : List (List Byte))
    {u : State} {c : RecvCtx} {seen : List Byte} (h : u.Postable) (hmax : u.cfg.dbMaxPay ≤ 511)
    (hfits : ∀ bs ∈ chunks ++ [final], bs.length ≤ u.cfg.dbMaxPay) (hseen : c.Seen max old seen u.msgbuf)
    (henv : u.env = inboundSchedule u.cfg (c.max - c.n) (inboundPackets src dst (chunks ++ [final]))) :
    ∃ k c' m, k ≤ 1029 * (chunks.length + 1) ∧ c'.Seen max old (seen ++ (chunks ++ [final]).flatten) m ∧
      Reaches k (u.poll (.dbEvent c))
        ((u.drained (inboundPackets src dst (chunks ++ [final])) m).recvDone c'
          (encodeHeader src dst (BitVec.ofNat 9 final.length) true)) := by
  induction chunks generalizing u c seen with
  | nil =>
    have short := (hfits _ List.mem_cons_self).trans hmax
    have hlen := headerLen_encodeHeader src dst short true
    have packet := reaches_received h hlen hmax (hfits _ List.mem_cons_self)
      (henv.trans (inboundSchedule_cons u.cfg c hlen []))
    rw [if_pos (by rw [decodeHeader_encodeHeader])] at packet
    have copied : c.copied (encodeHeader src dst (BitVec.ofNat 9 final.length) true) ≤ 511 :=
      (Nat.min_le_left _ _).trans (hlen.trans_le short)
    have seen' := hseen.afterPacket hlen.symm
    rw [List.nil_append, List.flatten_singleton]
    exact ⟨_, _, _, by rw [List.length_nil]; omega, seen', packet⟩
  | cons bs chunks ih =>
    have short := (hfits _ List.mem_cons_self).trans hmax
    have hlen := headerLen_encodeHeader src dst short false
    rw [List.cons_append, inboundPackets_cons] at henv ⊢
    have packet := reaches_received h hlen hmax (hfits _ List.mem_cons_self)
      (henv.trans (inboundSchedule_cons u.cfg c hlen _))
    rw [if_neg (by rw [decodeHeader_encodeHeader]; exact Bool.false_ne_true)] at packet
    have copied : c.copied (encodeHeader src dst (BitVec.ofNat 9 bs.length) false) ≤ 511 :=
      (Nat.min_le_left _ _).trans (hlen.trans_le short)
    obtain ⟨k, c', m, hk, hseen', rest⟩ := ih (u := u.received c _ bs (inboundSchedule u.cfg _ _))
      ⟨h.kind, rfl, memWriteList_wf h.inMsg _ _⟩ hmax
      (fun x hx => hfits x (List.mem_cons_of_mem bs hx)) (hseen.afterPacket hlen.symm) rfl
    rw [List.append_assoc, ← List.flatten_cons] at hseen'
    rw [drained_received] at rest
    refine ⟨_, c', m, ?_, hseen', packet.trans rest⟩
    rw [List.length_cons]
    omega

/-- Settles O59: the packets one after another. The premise of R246 is not needed. -/
theorem recvDoorbellMessage : Obligations.RecvDoorbellMessage := by
  intro a b blk s chunks final hwf hd hk hl _ hidle hin hfits hcount bytes packets m hshort henv
  obtain ⟨hmax, -⟩ := doorbell_of_wf hwf
  have start : beginRecv blk s = s.poll (.dbEvent (recvStart blk m)) := by
    rw [beginRecv, if_pos hd, if_pos hl, hk]
  obtain ⟨k, c, buf, hle, hseen, run⟩ := reaches_drained b a final chunks (u := s) ⟨hk, hidle, hin⟩ hmax hfits
    (recvStart_seen blk m s.msgbuf) henv
  rw [exec_eq_run, beginCommand, start, runCommand_of_reaches run (by omega) rfl,
    recvDone_of_seen (v := s.drained _ buf) hseen hshort]
  rfl

end Sys2Proof.Machine
end

section
/-! The handshake of a doorbell INIT and LRESET (44_doorbell.md R195, R201, R202), whatever the schedule. At every
position the events so far, followed by those that the position still has to append, are those of the whole handshake;
the schedule of the environment cannot change `COMM`, `REFCLK`, `OUT_MSG` or the trace. -/

namespace Sys2Proof.Machine

/-! ### The events that a position still has to append -/

theorem Doorbell.toWord_zero : Doorbell.zero.toWord = 0 := by decide

/-- The acknowledgements that are still to be consumed in a round. -/
def ackEvents (n : Nat) : List Event := List.replicate n (.writeReg .dbIn 0)

/-- The events after the round in hand: those of the second round, or none. -/
def eventsAfter (c : Config) (h : HsCtx) : List Event := if h.round = 1 then roundEvents c else []

/-- What the first five writes of the handshake leave. -/
structure CommUp (c : Config) (co : Comm) (rf : Word) : Prop where
  comm : co = { hostReady := true, drvLoaded := true, drvReady := true }
  refclk : rf = c.dbRefclk

/-- A wait of the handshake with the events `left` still to come. -/
def Wait.handshakes (c : Config) (left : List Event) : Wait → Prop
  | .hsIdle h => left = ackEvents c.dbHsAcks ++ eventsAfter c h
  | .hsAck h => h.acks ≠ 0 ∧ left = ackEvents h.acks ++ eventsAfter c h
  | _ => False

/-- A position of the handshake of a command issued in `s`, with these contents of `COMM`, `REFCLK` and `OUT_MSG`, and
the events `left` still to come. -/
def Pos.handshakes (s : State) (co : Comm) (rf : Word) (out : Memory) (left : List Event) : Pos → Prop
  | .pollStart w => CommUp s.cfg co rf ∧ w.handshakes s.cfg left
  | .pollCond w _ => CommUp s.cfg co rf ∧ w.handshakes s.cfg left
  | .pollNow w _ => CommUp s.cfg co rf ∧ w.handshakes s.cfg left
  | .hsClearIn h => h.round = 1 ∧ co = s.comm ∧ left = handshakeEvents s
  | .hsHostReady h => h.round = 1 ∧ co = s.comm ∧ left = (handshakeEvents s).drop 1
  | .hsRefclk h => h.round = 1 ∧ co = { s.comm with hostReady := true } ∧ left = (handshakeEvents s).drop 2
  | .hsLoaded h =>
    h.round = 1 ∧ co = { s.comm with hostReady := true } ∧ rf = s.cfg.dbRefclk ∧ left = (handshakeEvents s).drop 3
  | .hsReady h =>
    h.round = 1 ∧ co = { s.comm with hostReady := true, drvLoaded := true } ∧ rf = s.cfg.dbRefclk ∧
      left = (handshakeEvents s).drop 4
  | .hsPayload h k =>
    CommUp s.cfg co rf ∧ k < s.cfg.dbHsPayload.length ∧ memBytes out k = s.cfg.dbHsPayload.take k ∧
      left = roundEvents s.cfg ++ eventsAfter s.cfg h
  | .hsRing h => CommUp s.cfg co rf ∧ left = (roundEvents s.cfg).drop 1 ++ eventsAfter s.cfg h
  | .hsAckClear h => CommUp s.cfg co rf ∧ h.acks ≠ 0 ∧ left = ackEvents h.acks ++ eventsAfter s.cfg h
  | _ => False

/-! ### A handshake along its run -/

/-- What no step of the handshake changes, and that the window stays canonical. -/
structure HandshakeBase (s u : State) : Prop where
  cfg : u.cfg = s.cfg
  outMsg : u.outMsg.wf = true

/-- A handshake that has ended well. -/
structure HandshakeDone (s u : State) : Prop where
  trace : u.trace = s.trace ++ handshakeEvents s
  lstate : u.lstate = .ready
  up : CommUp s.cfg u.comm u.refclk

/-- A state of a run of the handshake of a command issued in `s`. -/
structure Handshaking (s u : State) : Prop where
  base : HandshakeBase s u
  busy : ∀ p, u.seq = .busy p → ∃ left, p.handshakes s u.comm u.refclk u.outMsg left ∧
    u.trace ++ left = s.trace ++ handshakeEvents s
  ended : u.seq = .idle → u.result = ResultCode.success.code → HandshakeDone s u

/-- An event moves from those to come to the trace. -/
theorem trace_snoc_append (es : List Event) (e : Event) (left : List Event) : es ++ [e] ++ left = es ++ e :: left :=
  List.append_cons es e left |>.symm

section
variable {s u : State} (h : HandshakeBase s u)
include h

theorem Handshaking.goto {left : List Event} (htrace : u.trace ++ left = s.trace ++ handshakeEvents s) {p : Pos}
    (hp : p.handshakes s u.comm u.refclk u.outMsg left) : Handshaking s (u.goto p) :=
  ⟨⟨h.cfg, h.outMsg⟩, fun _ hq => ⟨left, Seq.busy.inj hq ▸ hp, htrace⟩, nofun⟩

/-- A handshake that ends with another code promises nothing. -/
theorem Handshaking.ret {c : ResultCode} (hc : c ≠ .success) : Handshaking s (u.ret c) :=
  ⟨⟨h.cfg, h.outMsg⟩, fun _ => nofun, fun _ e => absurd (ResultCode.code_injective e) hc⟩

section
variable (hup : CommUp s.cfg u.comm u.refclk)
include hup

/-- The write of the payload, of which an empty one is an event at once. -/
theorem Handshaking.hsRound {x : HsCtx}
    (htrace : u.trace ++ (roundEvents s.cfg ++ eventsAfter s.cfg x) = s.trace ++ handshakeEvents s) :
    Handshaking s (hsRound u x) := by
  unfold Machine.hsRound
  rw [h.cfg]
  split
  next empty =>
    have none : s.cfg.dbHsPayload = [] := by simpa using empty
    refine .goto (u := u.emitWindow 0) (p := .hsRing x) ⟨h.cfg, h.outMsg⟩ ?_ ⟨hup, rfl⟩
    rw [State.emitWindow_trace, trace_snoc_append, ← htrace, roundEvents, none]
    rfl
  next some =>
    have pos : 0 < s.cfg.dbHsPayload.length := List.length_pos_iff.mpr (by simpa using some)
    exact .goto (p := .hsPayload x 0) h htrace ⟨hup, pos, rfl, rfl⟩

/-- The end of a round: the second one, or the end of the command by the way of the command. -/
theorem Handshaking.hsRoundEnd {x : HsCtx}
    (htrace : u.trace ++ eventsAfter s.cfg x = s.trace ++ handshakeEvents s) : Handshaking s (hsRoundEnd u x) := by
  unfold Machine.hsRoundEnd
  split
  next first =>
    rw [eventsAfter, if_pos first] at htrace
    exact .hsRound h hup (htrace ▸ congrArg _ (List.append_nil _))
  next second =>
    rw [eventsAfter, if_neg second, List.append_nil] at htrace
    split <;> exact ⟨⟨h.cfg, h.outMsg⟩, fun _ => nofun, fun _ _ => ⟨htrace, rfl, hup⟩⟩

/-- The acknowledgements of a round, then its end. -/
theorem Handshaking.hsAwait {x : HsCtx}
    (htrace : u.trace ++ (ackEvents x.acks ++ eventsAfter s.cfg x) = s.trace ++ handshakeEvents s) :
    Handshaking s (hsAwait u x) := by
  unfold Machine.hsAwait
  split
  next none =>
    rw [none] at htrace
    exact .hsRoundEnd h hup htrace
  next some => exact .goto (p := .pollStart (.hsAck x)) h htrace ⟨hup, some, rfl⟩

/-- The end of a wait. -/
theorem Handshaking.waitEnd {left : List Event} (htrace : u.trace ++ left = s.trace ++ handshakeEvents s) {w : Wait}
    (hw : w.handshakes s.cfg left) (r : PollEnd) : Handshaking s (waitEnd u r w) := by
  cases w with
  | hsIdle x =>
    obtain rfl := hw
    cases r with
    | ok => exact .hsAwait (x := { x with acks := u.cfg.dbHsAcks }) h hup (h.cfg ▸ htrace)
    | err e => exact .ret h (c := .timeout) (by decide)
  | hsAck x => cases r with
    | ok =>
      show Handshaking s (hsAckEnd u x .ok)
      rcases hsAckEnd_ok_cases u x with e | e <;> rw [e]
      · exact .goto (p := .hsAckClear x) h htrace ⟨hup, hw⟩
      · exact .ret h (by decide)
    | err e => exact .ret h (c := .timeout) (by decide)
  | _ => exact hw.elim

end

/-- Byte `k` of the payload; with the last one the event of the whole write. -/
theorem Handshaking.hsPayload {x : HsCtx} {k : Nat} {left : List Event} {t : State}
    (htrace : u.trace ++ left = s.trace ++ handshakeEvents s)
    (hp : Pos.handshakes s u.comm u.refclk u.outMsg left (.hsPayload x k)) (ha : hsPayload u x k = .next t) :
    Handshaking s t := by
  obtain ⟨hup, hk, hwritten, rfl⟩ := hp
  have byte : u.cfg.dbHsPayload.getD k 0 = s.cfg.dbHsPayload[k] := by rw [h.cfg, List.getD_eq_getElem _ _ hk]
  rw [Machine.hsPayload, byte] at ha
  rw [eq_of_outWrite_next ha]
  have written : memBytes (memWrite u.outMsg k s.cfg.dbHsPayload[k]) (k + 1) = s.cfg.dbHsPayload.take (k + 1) := by
    rw [memBytes_memWrite_succ h.outMsg, hwritten, List.take_concat_get']
  have base : HandshakeBase s { u with outMsg := memWrite u.outMsg k s.cfg.dbHsPayload[k] } :=
    ⟨h.cfg, memWrite_wf h.outMsg _ _⟩
  split
  next more => exact .goto (p := .hsPayload x (k + 1)) base htrace ⟨hup, h.cfg ▸ more, written, rfl⟩
  next last =>
    have length : u.cfg.dbHsPayload.length = k + 1 := by
      have more : ¬ k + 1 < u.cfg.dbHsPayload.length := last
      rw [h.cfg] at more ⊢
      omega
    have whole : memBytes (memWrite u.outMsg k s.cfg.dbHsPayload[k]) u.cfg.dbHsPayload.length = s.cfg.dbHsPayload := by
      rw [length, written, List.take_of_length_le (Nat.le_of_eq (h.cfg ▸ length))]
    refine .goto (u := State.emitWindow { u with outMsg := memWrite u.outMsg k s.cfg.dbHsPayload[k] } _) (p := .hsRing x)
      ⟨base.cfg, base.outMsg⟩ ?_ ⟨hup, rfl⟩
    rw [State.emitWindow_trace, trace_snoc_append, ← htrace]
    exact congrArg (u.trace ++ Event.writeWin · :: _) whole

end

/-- One atomic step of the handshake. -/
theorem engineAct_handshaking {s u t : State} (h : HandshakeBase s u) {p : Pos} {left : List Event}
    (hp : p.handshakes s u.comm u.refclk u.outMsg left) (htrace : u.trace ++ left = s.trace ++ handshakeEvents s)
    (ha : engineAct u p = .next t) : Handshaking s t := by
  cases p with
  | pollStart w => cases ha; exact .goto (p := .pollCond w _) h htrace hp
  | pollCond w x =>
    cases ha
    obtain ⟨hup, hw⟩ := hp
    exact pollCond_holds (.goto (p := .pollNow w x) h htrace ⟨hup, hw⟩) (fun _ => .waitEnd h hup htrace hw _)
      fun _ => .waitEnd h hup htrace hw _
  | pollNow w x =>
    cases ha
    obtain ⟨hup, hw⟩ := hp
    exact pollNow_holds (.waitEnd h hup htrace hw _) (.goto (p := .pollCond w x) h htrace ⟨hup, hw⟩)
  | hsClearIn x =>
    cases ha
    obtain ⟨hround, hco, rfl⟩ := hp
    refine .goto (u := u.clearDbIn) (p := .hsHostReady x) ⟨h.cfg, h.outMsg⟩ ?_ ⟨hround, hco, rfl⟩
    rw [State.clearDbIn_trace, trace_snoc_append, ← htrace, Doorbell.toWord_zero]
    rfl
  | hsHostReady x =>
    cases ha
    obtain ⟨hround, hco, rfl⟩ := hp
    have comm : (u.setComm true false false).comm = { s.comm with hostReady := true } := by
      simp only [State.setComm_comm, hco, Bool.or_true, Bool.or_false]
    refine .goto (u := u.setComm true false false) (p := .hsRefclk x) ⟨h.cfg, h.outMsg⟩ ?_ ⟨hround, comm, rfl⟩
    rw [State.setComm_trace, trace_snoc_append, ← htrace, comm]
    rfl
  | hsRefclk x =>
    cases ha
    obtain ⟨hround, hco, rfl⟩ := hp
    refine .goto (u := u.writeRefclk u.cfg.dbRefclk) (p := .hsLoaded x) ⟨h.cfg, h.outMsg⟩ ?_
      ⟨hround, hco, congrArg Config.dbRefclk h.cfg, rfl⟩
    rw [State.writeRefclk_trace, trace_snoc_append, ← htrace, h.cfg]
    rfl
  | hsLoaded x =>
    cases ha
    obtain ⟨hround, hco, hrf, rfl⟩ := hp
    have comm : (u.setComm false true false).comm = { s.comm with hostReady := true, drvLoaded := true } := by
      simp only [State.setComm_comm, hco, Bool.or_true, Bool.or_false]
    refine .goto (u := u.setComm false true false) (p := .hsReady x) ⟨h.cfg, h.outMsg⟩ ?_ ⟨hround, comm, hrf, rfl⟩
    rw [State.setComm_trace, trace_snoc_append, ← htrace, comm]
    rfl
  | hsReady x =>
    cases ha
    obtain ⟨hround, hco, hrf, rfl⟩ := hp
    have comm : (u.setComm false false true).comm = { hostReady := true, drvLoaded := true, drvReady := true } := by
      simp only [State.setComm_comm, hco, Bool.or_true, Bool.or_false]
    refine .hsRound (u := u.setComm false false true) ⟨h.cfg, h.outMsg⟩ ⟨comm, hrf⟩ ?_
    rw [State.setComm_trace, trace_snoc_append, ← htrace, comm, eventsAfter, if_pos hround]
    rfl
  | hsPayload x k => exact .hsPayload h htrace hp ha
  | hsRing x =>
    cases ha
    obtain ⟨hup, rfl⟩ := hp
    refine .goto (u := u.writeDbOut (Doorbell.ofWord u.cfg.dbHsDoorbell)) (p := .pollStart (.hsIdle x))
      ⟨h.cfg, h.outMsg⟩ ?_ ⟨hup, rfl⟩
    rw [State.writeDbOut_trace, trace_snoc_append, ← htrace, h.cfg]
    rfl
  | hsAckClear x =>
    cases ha
    obtain ⟨hup, hacks, rfl⟩ := hp
    refine .hsAwait (u := u.clearDbIn) (x := { x with acks := x.acks - 1 }) ⟨h.cfg, h.outMsg⟩ hup ?_
    obtain ⟨n, hn⟩ := Nat.exists_eq_add_one_of_ne_zero hacks
    rw [State.clearDbIn_trace, trace_snoc_append, ← htrace, Doorbell.toWord_zero, hn]
    rfl
  | _ => exact hp.elim

/-- A step of the handshake after the environment's moves. -/
theorem Handshaking.step {s u t : State} (h : Handshaking s u) {p : Pos} (hq : u.seq = .busy p)
    (ha : engineAct u.advance p = .next t) : Handshaking s t := by
  obtain ⟨⟨hcfg, hwf⟩, hbusy, -⟩ := h
  obtain ⟨left, hp, htrace⟩ := hbusy p hq
  rw [← u.advance_comm, ← u.advance_refclk, ← u.advance_outMsg] at hp
  rw [← u.advance_outMsg] at hwf
  rw [← u.advance_trace] at htrace
  exact engineAct_handshaking ⟨u.advance_cfg.trans hcfg, hwf⟩ hp htrace ha

/-- A doorbell INIT or LRESET begins with every event of the handshake to come. -/
theorem Handshaking.hsBegin {s u : State} (hcfg : u.cfg = s.cfg) (hwf : u.outMsg.wf = true) (hcomm : u.comm = s.comm)
    (htrace : u.trace = s.trace) (reset : Bool) : Handshaking s (hsBegin u reset) :=
  .goto (p := .hsClearIn _) ⟨hcfg, hwf⟩ (htrace ▸ rfl) ⟨rfl, hcomm, rfl⟩

theorem beginInit_eq_hsBegin {s : State} (hd : s.cfg.devicePresent = true) (hk : s.cfg.kind = .doorbell)
    (hl : s.lstate = .uninit) : beginInit s = hsBegin s false := by
  rw [beginInit, if_pos hd, hl, hk]

theorem beginLreset_eq_hsBegin {s : State} (hd : s.cfg.devicePresent = true) (hk : s.cfg.kind = .doorbell)
    (hl : s.lstate ≠ .uninit) : beginLreset s = hsBegin (s.setLink .resetting) true := by
  rw [beginLreset, if_pos hd, if_neg hl, hk]

/-- Settles O45: at a successful end no event of the handshake is left. -/
theorem handshakeTrace : Obligations.HandshakeTrace := by
  intro s t hd hk hwf hidle hcode hrun
  have run : Handshaking s t := by
    rcases hrun with ⟨hl, h⟩ | ⟨hl, h⟩ <;> rw [exec_eq_run, beginCommand] at h
    · rw [beginInit_eq_hsBegin hd hk hl] at h
      exact engineRun_induct (fun _ _ _ hq hu ha => hu.step hq ha) (.hsBegin rfl hwf rfl rfl _) h
    · rw [beginLreset_eq_hsBegin hd hk hl] at h
      exact engineRun_induct (fun _ _ _ hq hu ha => hu.step hq ha)
        (.hsBegin (s := s) (u := s.setLink .resetting) rfl hwf rfl rfl _) h
  obtain ⟨htrace, hlstate, hcomm, hrefclk⟩ := run.ended hidle hcode
  exact ⟨htrace, hlstate, hcomm, hrefclk⟩

end Sys2Proof.Machine
end

section
/-! The handshake of a doorbell INIT and LRESET with a coprocessor that answers (44_doorbell.md R193, R195, R201): five
register writes, then two rounds of the payload, the doorbell and the acknowledgements, each answered at the first look. -/

namespace Sys2Proof.Machine

/-! ### The register writes -/

/-- The locals of a handshake at its start. -/
def hsStart (reset : Bool) : HsCtx := { reset := reset, round := 1, acks := 0 }

/-- The state after the register writes of the handshake, `env` being what is left of the schedule. -/
def State.commUp (u : State) (env : List (List EnvMove)) : State :=
  { u with
    dbIn := Doorbell.zero
    comm := { hostReady := true, drvLoaded := true, drvReady := true }
    refclk := u.cfg.dbRefclk
    trace := u.trace ++ (handshakeEvents u).take 5
    env := env }

/-- A step for which the schedule holds no move, from a position that is no expiry test. -/
theorem reaches_of_env_cons {u t : State} {p : Pos} {env : List (List EnvMove)} (henv : u.env = [] :: env)
    (hp : ∀ w x, p ≠ .pollNow w x) (ha : engineAct ((u.withEnv env).goto p) p = .next t) : Reaches 1 (u.goto p) t :=
  .at_goto hp (by rw [advance_eq_withEnv henv]; exact ha)

theorem Reaches.of_eq {k : Nat} {s t t' : State} (h : Reaches k s t) (e : t = t') : Reaches k s t' := e ▸ h

theorem hsRound_goto (u : State) (p : Pos) (h : HsCtx) : hsRound (u.goto p) h = hsRound u h := by
  unfold hsRound
  split
  next empty => exact (if_pos empty).symm
  next some => exact (if_neg some).symm

theorem hsAwait_goto (u : State) (p : Pos) (h : HsCtx) : hsAwait (u.goto p) h = hsAwait u h := by
  unfold hsAwait hsRoundEnd
  rw [hsRound_goto]
  rfl

/-- The five register writes on a quiet link. -/
theorem reaches_hsRound {u : State} {env : List (List EnvMove)} (henv : u.env = List.replicate 5 [] ++ env)
    (reset : Bool) : Reaches 5 (hsBegin u reset) (hsRound (u.commUp env) (hsStart reset)) := by
  have clearIn : Reaches 1 (hsBegin u reset)
      ((u.withEnv (List.replicate 4 [] ++ env)).clearDbIn.goto (.hsHostReady (hsStart reset))) :=
    reaches_of_env_cons henv nofun rfl
  have hostReady {v : State} {env : List (List EnvMove)} (hv : v.env = [] :: env) :
      Reaches 1 (v.goto (.hsHostReady (hsStart reset)))
        (((v.withEnv env).setComm true false false).goto (.hsRefclk (hsStart reset))) :=
    reaches_of_env_cons hv nofun rfl
  have refclk {v : State} {env : List (List EnvMove)} (hv : v.env = [] :: env) :
      Reaches 1 (v.goto (.hsRefclk (hsStart reset)))
        (((v.withEnv env).writeRefclk v.cfg.dbRefclk).goto (.hsLoaded (hsStart reset))) :=
    reaches_of_env_cons hv nofun rfl
  have loaded {v : State} {env : List (List EnvMove)} (hv : v.env = [] :: env) :
      Reaches 1 (v.goto (.hsLoaded (hsStart reset)))
        (((v.withEnv env).setComm false true false).goto (.hsReady (hsStart reset))) :=
    reaches_of_env_cons hv nofun rfl
  have ready {v : State} {env : List (List EnvMove)} (hv : v.env = [] :: env) :
      Reaches 1 (v.goto (.hsReady (hsStart reset)))
        (hsRound ((v.withEnv env).setComm false false true) (hsStart reset)) :=
    reaches_of_env_cons hv nofun
      (congrArg _ (hsRound_goto ((v.withEnv env).setComm false false true) (.hsReady (hsStart reset)) _))
  refine (clearIn.trans ((hostReady rfl).trans ((refclk rfl).trans ((loaded rfl).trans (ready rfl))))).of_eq ?_
  refine congrArg (hsRound · _) ?_
  simp only [State.withEnv, State.clearDbIn, State.setComm, State.writeRefclk, State.emit, State.commUp,
    handshakeEvents, Doorbell.toWord_zero, Bool.or_true, Bool.or_false, List.append_assoc, List.cons_append,
    List.nil_append, List.take_succ_cons, List.take_zero]
  rfl

/-! ### One round -/

/-- The state once the payload of the handshake is in the window. -/
def State.filled (u : State) : State :=
  (u.filling u.cfg.dbHsPayload.length u.cfg.dbHsPayload).emit (.writeWin u.cfg.dbHsPayload)

section
variable {u : State} {h : HsCtx}

/-- The payload goes into the window on a quiet link, byte by byte. -/
theorem reaches_hsRing (hquiet : QuietFor u.cfg.dbHsPayload.length u.env)
    (hfits : u.cfg.dbHsPayload.length ≤ windowSize u.cfg) (hwf : u.outMsg.wf = true) :
    Reaches u.cfg.dbHsPayload.length (hsRound u h) (u.filled.goto (.hsRing h)) := by
  unfold State.filled hsRound
  split
  next empty =>
    have none : u.cfg.dbHsPayload = [] := by simpa using empty
    rw [none]
    exact .refl _
  next some =>
    obtain ⟨m, hm⟩ := Nat.exists_eq_add_one_of_ne_zero (n := u.cfg.dbHsPayload.length) (by simpa using some)
    have byte {k : Nat} (hk : k < u.cfg.dbHsPayload.length) {t : State}
        (ht : (if k + 1 < u.cfg.dbHsPayload.length then
            (u.filling (k + 1) (u.cfg.dbHsPayload.take (k + 1))).goto (.hsPayload h (k + 1))
          else ((u.filling (k + 1) (u.cfg.dbHsPayload.take (k + 1))).emitWindow u.cfg.dbHsPayload.length).goto
            (.hsRing h)) = t) :
        Reaches 1 ((u.filling k (u.cfg.dbHsPayload.take k)).goto (.hsPayload h k)) t := by
      have value : (u.filling (k + 1) (u.cfg.dbHsPayload.take k)).cfg.dbHsPayload.getD k 0 = u.cfg.dbHsPayload[k] :=
        List.getD_eq_getElem _ _ hk
      refine QuietFor.reaches (hquiet.at hk) nofun ?_
      rw [State.later_filling, engineAct, hsPayload, State.goto_cfg, value, outWrite_filling hk (by omega)]
      exact congrArg _ ht
    have first : Reaches (m * 1) (u.goto (.hsPayload h 0))
        ((u.filling m (u.cfg.dbHsPayload.take m)).goto (.hsPayload h m)) :=
      .iterate (F := fun k => (u.filling k (u.cfg.dbHsPayload.take k)).goto (.hsPayload h k)) fun k hk =>
        byte (by omega) (if_pos (by omega))
    have last := byte (k := m) (by omega) (if_neg (by omega))
    have window : memBytes (u.filling u.cfg.dbHsPayload.length u.cfg.dbHsPayload).outMsg u.cfg.dbHsPayload.length =
        u.cfg.dbHsPayload := memBytes_memWriteList hwf _
    rw [← hm, List.take_length, State.emitWindow] at last
    have run := first.trans last
    rw [Nat.mul_one, ← hm] at run
    rw [window] at run
    exact run

/-- The coprocessor takes the message at the look for it. -/
theorem reaches_hsAwait (hk : u.cfg.kind = .doorbell) {env : List (List EnvMove)}
    (henv : u.env = [] :: [.takeOut] :: env) :
    Reaches 2 (u.poll (.hsIdle h))
      (hsAwait { u with dbOut := { u.dbOut with busy := false }, env := env } { h with acks := u.cfg.dbHsAcks }) := by
  have look : u.advance.advance = { u with dbOut := { u.dbOut with busy := false }, env := env } := by
    rw [advance_eq_withEnv henv, State.envMoves_nil, advance_eq_withEnv (env := env) rfl, State.envMoves_cons,
      State.envMoves_nil, State.envMove, State.whenDoorbell, if_pos (by exact hk)]
    rfl
  have idle := reaches_waitEnd_of_first (s := u) (w := .hsIdle h) (by rw [look]; rfl)
  rw [look] at idle
  exact idle

/-- The moves of the coprocessor for its acknowledgements. -/
def ackMoves (acks : List Word) : List (List EnvMove) := acks.flatMap fun w => [[], [.postIn w], []]

/-- An acknowledgement: a management event of either kind (44_doorbell.md R193). -/
def isAck (c : Config) (w : Word) : Prop :=
  (Doorbell.ofWord w).proto = c.dbProtoMgmt ∧
    ((Doorbell.ofWord w).subcmd = c.dbSubCompletion ∨ (Doorbell.ofWord w).subcmd = c.dbSubResetAck)

/-- An acknowledgement is posted at the look for it and consumed. -/
theorem reaches_hsAckClear (hk : u.cfg.kind = .doorbell) (hidle : u.dbIn.busy = false) {w : Word}
    (hw : isAck u.cfg w) {env : List (List EnvMove)} (henv : u.env = [] :: [.postIn w] :: [] :: env)
    (hacks : h.acks ≠ 0) :
    Reaches 3 (hsAwait u h) (hsAwait (u.withEnv env).clearDbIn { h with acks := h.acks - 1 }) := by
  have look : u.advance.advance =
      { u with dbIn := { Doorbell.ofWord w with busy := true }, env := [] :: env } := by
    rw [advance_eq_withEnv henv, State.envMoves_nil, advance_eq_withEnv (env := [] :: env) rfl, State.envMoves_cons,
      State.envMoves_nil, State.envMove, State.whenDoorbell, if_pos (by exact hk), if_pos (by exact hidle)]
    rfl
  have event := reaches_waitEnd_of_first (s := u) (w := .hsAck h) (by rw [look]; rfl)
  have mgmt : isMgmtEvent u.cfg (Doorbell.ofWord w) [u.cfg.dbSubCompletion, u.cfg.dbSubResetAck] = true := by
    simpa [isMgmtEvent, isAck] using hw
  rw [look, waitEnd, hsAckEnd, if_pos (by exact mgmt)] at event
  have clear : Reaches 1
      (State.goto { u with dbIn := { Doorbell.ofWord w with busy := true }, env := [] :: env } (.hsAckClear h))
      (hsAwait (u.withEnv env).clearDbIn { h with acks := h.acks - 1 }) :=
    reaches_of_env_cons rfl nofun (congrArg _ (hsAwait_goto (u.withEnv env).clearDbIn (.hsAckClear h) _))
  rw [hsAwait, if_neg hacks]
  exact event.trans clear

/-- The state after `n` acknowledgements, `env` being what is left of the schedule. -/
def State.acked (u : State) (n : Nat) (env : List (List EnvMove)) : State :=
  { u with dbIn := Doorbell.zero, env := env, trace := u.trace ++ ackEvents n }

theorem State.acked_zero {u : State} (hidle : u.dbIn = Doorbell.zero) : u.acked 0 u.env = u := by
  rw [State.acked, ← hidle, ackEvents, List.replicate_zero, List.append_nil]

theorem State.acked_succ (u : State) (n : Nat) (env env' : List (List EnvMove)) :
    (u.withEnv env).clearDbIn.acked n env' = u.acked (n + 1) env' := by
  simp only [State.acked, State.withEnv, State.clearDbIn, State.emit, Doorbell.toWord_zero, ackEvents,
    List.replicate_succ, List.append_assoc, List.singleton_append]

/-- All acknowledgements of a round. -/
theorem reaches_hsRoundEnd {acks : List Word} {env : List (List EnvMove)} (hk : u.cfg.kind = .doorbell)
    (hidle : u.dbIn = Doorbell.zero) (hacks : ∀ w ∈ acks, isAck u.cfg w) (henv : u.env = ackMoves acks ++ env)
    (hcount : h.acks = acks.length) :
    Reaches (acks.length * 3) (hsAwait u h) (hsRoundEnd (u.acked acks.length env) { h with acks := 0 }) := by
  induction acks generalizing u h with
  | nil =>
    obtain rfl : u.env = env := henv
    have none : h.acks = 0 := hcount
    have same : { h with acks := 0 } = h := by rw [← none]
    rw [hsAwait, if_pos none, List.length_nil, State.acked_zero hidle, same]
    exact .refl _
  | cons w acks ih =>
    obtain ⟨hw, hrest⟩ := List.forall_mem_cons.mp hacks
    rw [List.length_cons] at hcount
    have one := reaches_hsAckClear (h := h) hk (by rw [hidle]; rfl) hw henv (by omega)
    have rest := ih (u := (u.withEnv (ackMoves acks ++ env)).clearDbIn) (h := { h with acks := h.acks - 1 }) hk rfl
      hrest rfl (by show h.acks - 1 = acks.length; omega)
    rw [State.acked_succ] at rest
    have run := one.trans rest
    rw [Nat.add_comm, ← Nat.succ_mul] at run
    exact run

/-- The state after a round, `env` being what is left of the schedule. -/
def State.afterRound (u : State) (env : List (List EnvMove)) : State :=
  { u with
    dbOut := { Doorbell.ofWord u.cfg.dbHsDoorbell with busy := false }
    dbIn := Doorbell.zero
    outMsg := memWriteList u.outMsg 0 u.cfg.dbHsPayload
    trace := u.trace ++ roundEvents u.cfg
    env := env }

/-- The state once the doorbell of the handshake is written too, the coprocessor about to take it. -/
def State.rung (u : State) (env : List (List EnvMove)) : State :=
  (u.filled.withEnv ([] :: [.takeOut] :: env)).writeDbOut (Doorbell.ofWord u.cfg.dbHsDoorbell)

/-- The state once the coprocessor has taken the message. -/
def State.taken (u : State) (env : List (List EnvMove)) : State :=
  { u.rung env with dbOut := { Doorbell.ofWord u.cfg.dbHsDoorbell with busy := false }, env := env }

theorem reaches_rung {env : List (List EnvMove)}
    (henv : u.env.drop u.cfg.dbHsPayload.length = [] :: [] :: [.takeOut] :: env) :
    Reaches 1 (u.filled.goto (.hsRing h)) ((u.rung env).poll (.hsIdle h)) :=
  reaches_of_env_cons henv nofun rfl

theorem reaches_taken (hk : u.cfg.kind = .doorbell) (env : List (List EnvMove)) :
    Reaches 2 ((u.rung env).poll (.hsIdle h)) (hsAwait (u.taken env) { h with acks := u.cfg.dbHsAcks }) :=
  reaches_hsAwait (u := u.rung env) hk rfl

@[simp] theorem State.taken_cfg (u : State) (env : List (List EnvMove)) : (u.taken env).cfg = u.cfg := by
  simp [State.taken, State.rung, State.filled, State.filling, State.later, State.withEnv]

@[simp] theorem State.taken_dbIn (u : State) (env : List (List EnvMove)) : (u.taken env).dbIn = u.dbIn := by
  simp [State.taken, State.rung, State.filled, State.filling, State.later, State.withEnv]

/-- A whole round with a coprocessor that answers. -/
theorem reaches_afterRound {acks : List Word} {env : List (List EnvMove)} (hk : u.cfg.kind = .doorbell)
    (hfits : u.cfg.dbHsPayload.length ≤ windowSize u.cfg) (hwf : u.outMsg.wf = true) (hidle : u.dbIn = Doorbell.zero)
    (hcount : acks.length = u.cfg.dbHsAcks) (hacks : ∀ w ∈ acks, isAck u.cfg w)
    (henv : u.env = handshakeRound u.cfg.dbHsPayload.length acks ++ env) :
    Reaches (u.cfg.dbHsPayload.length + (1 + (2 + acks.length * 3))) (hsRound u h)
      (hsRoundEnd (u.afterRound env) { h with acks := 0 }) := by
  have shape : u.env =
      List.replicate (u.cfg.dbHsPayload.length + 2) [] ++ ([.takeOut] :: (ackMoves acks ++ env)) :=
    henv.trans (List.append_assoc ..)
  have quiet : QuietFor (u.cfg.dbHsPayload.length + 2) u.env := shape ▸ quietFor_replicate _ _
  have later : u.env.drop u.cfg.dbHsPayload.length = [] :: [] :: [.takeOut] :: (ackMoves acks ++ env) := by
    rw [shape, List.replicate_add, List.append_assoc, List.drop_left' List.length_replicate]
    rfl
  have fill := reaches_hsRing (h := h) (quiet.mono (Nat.le_add_right _ 2)) hfits hwf
  have ring := reaches_rung (h := h) later
  have taken := reaches_taken (h := h) hk (ackMoves acks ++ env)
  have acked := reaches_hsRoundEnd (u := u.taken (ackMoves acks ++ env)) (h := { h with acks := u.cfg.dbHsAcks })
    (env := env) (by rw [u.taken_cfg, hk]) (by rw [u.taken_dbIn, hidle])
    (by rwa [u.taken_cfg]) rfl hcount.symm
  refine (fill.trans (ring.trans (taken.trans acked))).of_eq ?_
  simp only [State.acked, State.taken, State.rung, State.filled, State.filling, State.later, State.writeDbOut,
    State.emit, State.withEnv, State.afterRound, roundEvents, ackEvents, hcount, hidle, List.append_assoc, List.cons_append,
    List.nil_append]

end

/-! ### The whole handshake -/

/-- What a whole handshake leaves, but for the link state and the end of the command. -/
def State.handshaken (u : State) : State :=
  { u with
    dbIn := Doorbell.zero
    dbOut := { Doorbell.ofWord u.cfg.dbHsDoorbell with busy := false }
    comm := { hostReady := true, drvLoaded := true, drvReady := true }
    refclk := u.cfg.dbRefclk
    outMsg := memWriteList u.outMsg 0 u.cfg.dbHsPayload
    trace := u.trace ++ handshakeEvents u
    env := [] }

/-- Two rounds after the register writes are a whole handshake. -/
theorem State.afterRound_afterRound {u : State} (hwf : u.outMsg.wf = true) (env env' : List (List EnvMove)) :
    ((u.commUp env).afterRound env').afterRound [] = u.handshaken := by
  simp only [State.afterRound, State.commUp, State.handshaken, memWriteList_memWriteList hwf, handshakeEvents,
    List.append_assoc, List.cons_append, List.nil_append, List.take_succ_cons, List.take_zero]

/-- A legal handshake is short. -/
theorem handshake_length_le {c : Config} (hwf : c.wf = true) : c.dbHsPayload.length ≤ 515 ∧ c.dbHsAcks ≤ 2 := by
  obtain ⟨hmax, hfits⟩ := doorbell_of_wf hwf
  obtain ⟨-, -, -, -, -, -, -, -, -, hbell⟩ := (config_wf_iff c).mp hwf
  simp only [Config.doorbellOk, Bool.and_eq_true, Bool.or_eq_true, decide_eq_true_eq, and_assoc] at hbell
  obtain ⟨-, -, -, -, -, -, hacks⟩ := hbell
  rw [windowSize] at hfits
  omega

/-- The handshake from its begin to the end of the second round. -/
theorem runCommand_hsBegin {u : State} {acks1 acks2 : List Word} (hwf : u.cfg.wf = true)
    (hk : u.cfg.kind = .doorbell) (hout : u.outMsg.wf = true) (hcount1 : acks1.length = u.cfg.dbHsAcks)
    (hcount2 : acks2.length = u.cfg.dbHsAcks) (hacks : ∀ w ∈ acks1 ++ acks2, isAck u.cfg w)
    (henv : u.env = handshakeSchedule u.cfg.dbHsPayload.length acks1 acks2) (reset : Bool) :
    runCommand (hsBegin u reset) = .next (if reset then u.handshaken.linkResynced else u.handshaken.linkUp) := by
  obtain ⟨hacks1, hacks2⟩ := List.forall_mem_append.mp hacks
  have hfits := (doorbell_of_wf hwf).2
  have begins := reaches_hsRound (henv.trans (List.append_assoc ..)) reset
  have round1 := reaches_afterRound
    (u := u.commUp (handshakeRound u.cfg.dbHsPayload.length acks1 ++ handshakeRound u.cfg.dbHsPayload.length acks2))
    (h := hsStart reset) hk hfits hout rfl hcount1 hacks1 rfl
  have round2 := reaches_afterRound
    (u := (u.commUp (handshakeRound u.cfg.dbHsPayload.length acks1 ++
      handshakeRound u.cfg.dbHsPayload.length acks2)).afterRound (handshakeRound u.cfg.dbHsPayload.length acks2))
    (h := { reset := reset, round := 2, acks := 0 }) hk hfits (memWriteList_wf hout ..) rfl hcount2 hacks2
    (List.append_nil _).symm
  rw [hsRoundEnd, if_pos (by rfl)] at round1
  rw [State.afterRound_afterRound hout, hsRoundEnd, if_neg (Nat.succ_ne_self 1)] at round2
  obtain ⟨hpayload, hfew⟩ := handshake_length_le hwf
  refine runCommand_of_reaches (begins.trans (round1.trans round2)) ?_ (by cases reset <;> rfl)
  show 5 + (u.cfg.dbHsPayload.length + (1 + (2 + acks1.length * 3)) +
    (u.cfg.dbHsPayload.length + (1 + (2 + acks2.length * 3)))) ≤ 2 ^ 64
  omega

/-- Settles O44: the two commands differ in the link state at the begin and in the end of the second round. -/
theorem handshakeCompletes : Obligations.HandshakeCompletes := by
  intro s acks1 acks2 hwf hd hk hout hcount1 hcount2 hacks henv t
  refine ⟨fun hl => ?_, fun hl => ?_⟩ <;> rw [exec_eq_run, beginCommand]
  · rw [beginInit_eq_hsBegin hd hk hl]
    exact runCommand_hsBegin hwf hk hout hcount1 hcount2 hacks henv false
  · rw [beginLreset_eq_hsBegin hd hk hl]
    exact runCommand_hsBegin (u := s.setLink .resetting) hwf hk hout hcount1 hcount2 hacks henv true

end Sys2Proof.Machine
end

section
/-! Result codes (60_exceptions.md R215, R216, R221, R223): their numbers, how `return` and `fail` write them, what TSTART,
TEXPIRED and the queries end with, and the commands that end before their first access because there is no device. -/

namespace Sys2Proof.Machine

/-- Settles O8, table by table. -/
theorem codeNumbers : Obligations.CodeNumbers := by
  refine ⟨?_, ?_, ?_⟩ <;> decide

/-- `fail` sets `RESYNC` after a move, and for the two codes that lose the place in the stream (60_exceptions.md R223). -/
theorem abort_resync_eq (s : State) (c : ResultCode) (moved : Bool) :
    (s.abort c moved).resync =
      if moved = true ∨ c = .notReady ∨ c = .protocolError then true else s.resync := by
  rw [State.abort_resync]
  split
  next h => rcases h with rfl | rfl | rfl <;> simp
  next h =>
    obtain ⟨unmoved, ready, protocol⟩ : moved = false ∧ c ≠ .notReady ∧ c ≠ .protocolError := by simpa using h
    simp [unmoved, ready, protocol]

/-- Settles O18: `fail` is its abort bookkeeping and a `return`. -/
theorem failBookkeeping : Obligations.FailBookkeeping := by
  intro s c moved
  refine ⟨rfl, ?_⟩
  rw [← abort_resync_eq]
  rfl

/-- Two codes with one number are one code. -/
theorem ResultCode.code_inj {c d : ResultCode} : c.code = d.code ↔ c = d := ⟨ResultCode.code_injective, congrArg _⟩

/-! ### The timer and the queries -/

/-- A timer command ends `SUCCESS` or `UNSUPPORTED` (40_timer.md R112, R114). -/
theorem timer_endCode {i : Instr} {s t : State} (hi : i = .tstart ∨ i = .texpired) (h : exec i s = .next t) :
    t.result = ResultCode.success.code ∨ t.result = ResultCode.unsupported.code := by
  rcases hi with rfl | rfl
  · by_cases fits : ticksOf s.cfg s.arg0.toNat < 2 ^ s.cfg.cw
    · cases (exec_tstart_of_fits fits).symm.trans h
      exact .inl rfl
    · cases (exec_tstart_of_not_fits fits).symm.trans h
      exact .inr rfl
  · by_cases fits : s.arg0.toNat < 2 ^ s.cfg.cw ∧ s.arg1.toNat < 2 ^ s.cfg.cw
    · cases (exec_texpired_of_fits fits).symm.trans h
      exact .inl rfl
    · cases (exec_texpired_of_not_fits fits).symm.trans h
      exact .inr rfl

/-- A query ends `SUCCESS`, or there is no device (43_trust.md R173). -/
theorem query_endCode {q : Query} {s t : State} (h : runCommand (beginQuery q s) = .next t) :
    t.result = ResultCode.success.code ∨ t.result = ResultCode.deviceNotPresent.code := by
  rw [runCommand_beginQuery] at h
  cases h
  split
  · exact .inl rfl
  · exact .inr rfl

/-! ### Without a device -/

/-- Without a device every command but the timer's ends before its first access (60_exceptions.md R216). -/
theorem beginCommand_of_absent {i : Instr} {s : State} (hstart : i ≠ .tstart) (hexpired : i ≠ .texpired)
    (hd : s.cfg.devicePresent = false) : beginCommand i s = s.ret .deviceNotPresent := by
  have absent : ¬ s.cfg.devicePresent = true := Bool.eq_false_iff.mp hd
  cases i with
  | tstart => exact absurd rfl hstart
  | texpired => exact absurd rfl hexpired
  | _ => exact if_neg absent

/-- Settles O19: the strap is tested before the first access, and the timer commands do not test it. -/
theorem deviceAbsent : Obligations.DeviceAbsent := by
  refine ⟨fun i s hstart hexpired hd => ?_, fun i s t hi h => ?_⟩
  · rw [exec_eq_run, beginCommand_of_absent hstart hexpired hd, runCommand_ret]
    rfl
  · rcases timer_endCode hi h with e | e <;> rw [e] <;> decide

end Sys2Proof.Machine
end

section
/-! The codes of INIT and LRESET (60_exceptions.md R215 to R218, R230): at each position of their runs they go on or end
with a code of the kind of their link. -/

namespace Sys2Proof.Machine

/-- The codes that INIT and LRESET can end with at one of their accesses on a link of kind `k`. -/
def linkCodes : TransportKind → List ResultCode
  | .circular => [.success, .timeout]
  | .doorbell => [.success, .timeout, .protocolError]

theorem success_mem_linkCodes (k : TransportKind) : .success ∈ linkCodes k := by cases k <;> decide

theorem timeout_mem_linkCodes (k : TransportKind) : .timeout ∈ linkCodes k := by cases k <;> decide

/-- A state in which the command has not ended, or has ended with one of these codes. -/
def EndsIn (codes : List ResultCode) (t : State) : Prop := t.seq = .idle → ∃ c ∈ codes, t.result = c.code

theorem EndsIn.goto (codes : List ResultCode) (u : State) (p : Pos) : EndsIn codes (u.goto p) := nofun

section
variable {codes : List ResultCode} (u : State)

theorem EndsIn.ret {c : ResultCode} (hc : c ∈ codes) : EndsIn codes (u.ret c) := fun _ => ⟨c, hc, rfl⟩

theorem EndsIn.hsRound (x : HsCtx) : EndsIn codes (hsRound u x) := by
  rcases hsRound_cases u x with e | ⟨-, e⟩ <;> rw [e] <;> exact .goto _ _ _

theorem EndsIn.hsAwait (x : HsCtx) (hc : .success ∈ codes) : EndsIn codes (hsAwait u x) := by
  rcases hsAwait_cases u x with ⟨y, e⟩ | e | e | e <;> rw [e]
  · exact .hsRound u y
  · exact .ret ({ u with resync := false }.setLink .ready) hc
  · exact .ret (u.setLink .ready) hc
  · exact .goto _ _ _

/-- The waits of INIT and LRESET end them `TIMEOUT`, and one of the handshake with `PROTOCOL_ERROR` too. -/
theorem EndsIn.waitEnd {w : Wait} (ho : w.owner = .link) (r : PollEnd) :
    EndsIn (linkCodes w.kind) (waitEnd u r w) := by
  have late := EndsIn.ret u (timeout_mem_linkCodes w.kind)
  cases w with
  | initReady => cases r with
    | ok => exact .goto _ _ _
    | err e => exact late
  | resetAccepted => cases r with
    | ok => exact .goto _ _ _
    | err e => exact late
  | resetReady => cases r with
    | ok => exact .goto _ _ _
    | err e => exact late
  | hsIdle x => cases r with
    | ok => exact .hsAwait u _ (success_mem_linkCodes _)
    | err e => exact late
  | hsAck x => cases r with
    | ok =>
      show EndsIn (linkCodes .doorbell) (hsAckEnd u x .ok)
      rcases hsAckEnd_ok_cases u x with e | e <;> rw [e]
      · exact .goto _ _ _
      · exact .ret u (by decide)
    | err e => exact late
  | _ => cases ho

end

/-- One atomic step of INIT or LRESET. -/
theorem engineAct_endsIn {k : TransportKind} {u t : State} {p : Pos} (hp : p.onKind k) (ho : p.owner = .link)
    (ha : engineAct u p = .next t) : EndsIn (linkCodes k) t := by
  have up := success_mem_linkCodes k
  cases p with
  | pollStart w => cases ha; exact .goto _ _ _
  | pollCond w x =>
    cases ha
    obtain rfl := hp
    exact pollCond_holds (.goto _ _ _) (fun _ => .waitEnd u ho _) fun _ => .waitEnd u ho _
  | pollNow w x =>
    cases ha
    obtain rfl := hp
    exact pollNow_holds (.waitEnd u ho _) (.goto _ _ _)
  | initWrite => cases ha; exact .ret ((u.writeHcsr (some false) (some true) (some true)).setLink .ready) up
  | lresetBegin => cases ha; exact .goto _ _ _
  | lresetEnd =>
    cases ha
    exact .ret ({ u.writeHcsr (some false) (some true) (some true) with resync := false }.setLink .ready) up
  | hsClearIn x => cases ha; exact .goto _ _ _
  | hsHostReady x => cases ha; exact .goto _ _ _
  | hsRefclk x => cases ha; exact .goto _ _ _
  | hsLoaded x => cases ha; exact .goto _ _ _
  | hsReady x => cases ha; exact .hsRound _ _
  | hsPayload x j =>
    simp only [engineAct, hsPayload] at ha
    rw [eq_of_outWrite_next ha]
    split <;> exact .goto _ _ _
  | hsRing x => cases ha; exact .goto _ _ _
  | hsAckClear x => cases ha; exact .hsAwait _ _ up
  | _ => cases ho

/-- A command that has ended before its first access has ended with a code of its own (60_exceptions.md R216, R217). -/
theorem beginCommand_endsIn {i : Instr} (hi : commandOwner i = .link) (s : State) :
    EndsIn (.deviceNotPresent :: .notReady :: linkCodes s.cfg.kind) (beginCommand i s) := by
  have absent := EndsIn.ret (codes := .deviceNotPresent :: .notReady :: linkCodes s.cfg.kind) s (.head _)
  have notReady := EndsIn.ret (codes := .deviceNotPresent :: .notReady :: linkCodes s.cfg.kind) s (.tail _ (.head _))
  cases i with
  | init =>
    simp only [beginCommand, beginInit]
    split
    · split
      · exact .ret s (.tail _ (.tail _ (success_mem_linkCodes _)))
      · exact notReady
      · split <;> exact .goto _ _ _
    · exact absent
  | lreset =>
    simp only [beginCommand, beginLreset]
    split
    · split
      · exact notReady
      · split <;> exact .goto _ _ _
    · exact absent
  | _ => cases hi

/-- What an INIT or LRESET that has ended has ended with. -/
theorem link_endsIn {i : Instr} {s t : State} (hi : commandOwner i = .link) (h : exec i s = .next t) :
    EndsIn (.deviceNotPresent :: .notReady :: linkCodes s.cfg.kind) t := by
  rw [exec_eq_run] at h
  have hend : CommandRun (commandOwner i) s t ∧ EndsIn (.deviceNotPresent :: .notReady :: linkCodes s.cfg.kind) t := by
    refine engineRun_induct (P := fun u => CommandRun (commandOwner i) s u ∧ EndsIn _ u)
      (fun u p v hq hu ha => ⟨hu.left.engine hq ha, fun idle => ?_⟩)
      ⟨beginCommand_run i s, beginCommand_endsIn hi s⟩ h
    obtain ⟨c, hc, result⟩ :=
      engineAct_endsIn (hu.left.link.pos p hq) ((hu.left.pos p hq).trans hi) ha idle
    exact ⟨c, .tail _ (.tail _ hc), result⟩
  exact hend.right

end Sys2Proof.Machine
end

section
/-! How a SEND or RECV ends (60_exceptions.md R215 to R223, R230 to R234), for both kinds of link and whatever the
schedule. Until its end it leaves the link's own state and the results alone and only appends events; `moved` says at every
position from which it can fail whether one of these events has moved something. So each of its ends is one of three: it is
refused with nothing done, it fails by the bookkeeping of R223, or it completes. -/

namespace Sys2Proof.Machine

/-! ### What has been moved -/

/-- The events by which a SEND or RECV on a link of kind `k` moves something: it pushes or pops a word, it writes `DB_OUT`
or clears `DB_IN` (60_exceptions.md R223). -/
def Event.moves : TransportKind → Event → Bool
  | .circular, .push _ => true
  | .circular, .pop _ => true
  | .doorbell, .writeReg .dbOut _ => true
  | .doorbell, .writeReg .dbIn _ => true
  | _, _ => false

/-- One of the events has moved something. -/
def anyMoved (k : TransportKind) (es : List Event) : Bool := es.any (Event.moves k)

section
variable {k : TransportKind} {es : List Event} {e : Event}

theorem anyMoved_snoc (h : e.moves k = true) : anyMoved k (es ++ [e]) = true := by
  rw [anyMoved, List.any_append, List.any_cons, h, Bool.true_or, Bool.or_true]

theorem anyMoved_snoc_of_not (h : e.moves k = false) : anyMoved k (es ++ [e]) = anyMoved k es := by
  rw [anyMoved, List.any_append, List.any_cons, h, List.any_nil, Bool.or_false, Bool.or_false, anyMoved]

end

/-- A reading of the trace has grown exactly if one of the new events is read. -/
theorem filterMap_append_ne_iff {α : Type} (f : Event → Option α) (before es : List Event) :
    (before ++ es).filterMap f ≠ before.filterMap f ↔ ∃ e ∈ es, f e ≠ none := by
  rw [List.filterMap_append, Ne, List.append_right_eq_self, List.filterMap_eq_nil_iff]
  simp only [not_forall, exists_prop, ne_eq]

/-- On a circular link something has moved exactly if words have been pushed or popped. -/
theorem anyMoved_circular_iff (before es : List Event) :
    anyMoved .circular es = true ↔ pushes (before ++ es) ≠ pushes before ∨ pops (before ++ es) ≠ pops before := by
  rw [pushes, pushes, pops, pops, filterMap_append_ne_iff, filterMap_append_ne_iff, ← exists_or, anyMoved,
    List.any_eq_true]
  refine exists_congr fun e => ?_
  rw [← and_or_left]
  refine and_congr_right fun _ => ?_
  cases e <;> simp [Event.moves]

/-- On a doorbell link something has moved exactly if `DB_OUT` has been written or `DB_IN` cleared. -/
theorem anyMoved_doorbell_iff (before es : List Event) :
    anyMoved .doorbell es = true ↔ rings (before ++ es) ≠ rings before ∨ clears (before ++ es) ≠ clears before := by
  rw [rings, rings, clears, clears, filterMap_append_ne_iff, filterMap_append_ne_iff, ← exists_or, anyMoved,
    List.any_eq_true]
  refine exists_congr fun e => ?_
  rw [← and_or_left]
  refine and_congr_right fun _ => ?_
  cases e with
  | writeReg r w => cases r <;> simp [Event.moves]
  | _ => simp [Event.moves]

/-! ### Where a SEND or RECV stands -/

/-- The locals of a RECV `i` that know whether the events `es` have moved something. -/
def RecvCtx.Follows (k : TransportKind) (i : Instr) (es : List Event) (c : RecvCtx) : Prop :=
  i = .recv c.blocking ∧ c.moved = anyMoved k es

/-- The same between two packets: at the first nothing has happened yet. -/
def RecvCtx.FollowsWhole (k : TransportKind) (i : Instr) (es : List Event) (c : RecvCtx) : Prop :=
  c.Follows k i es ∧ (c.first = true → es = [])

/-- The locals of a RECV `i` that has moved something, and know it. -/
def RecvCtx.Moved (k : TransportKind) (i : Instr) (es : List Event) (c : RecvCtx) : Prop :=
  i = .recv c.blocking ∧ c.moved = true ∧ anyMoved k es = true

/-- The locals of a SEND that has moved something, and know it. -/
def SendCtx.Moved (k : TransportKind) (es : List Event) (c : SendCtx) : Prop :=
  c.moved = true ∧ anyMoved k es = true

/-- A wait of a SEND or RECV `i` that has appended the events `es`. -/
def Wait.follows (k : TransportKind) (i : Instr) (es : List Event) : Wait → Prop
  | .sendRoom c => c.moved = anyMoved k es
  | .recvHeader c => c.FollowsWhole k i es
  | .recvWord c _ => c.Follows k i es
  | .dbIdle c => c.moved = anyMoved k es
  | .dbDone c => c.Moved k es
  | .dbAck c => c.Moved k es
  | .dbEvent c => c.FollowsWhole k i es
  | _ => False

/-- A position past the gate of a SEND or RECV `i` that has appended the events `es`. A position whose access moves
something and cannot fail promises nothing of what has been moved before. -/
def Pos.follows (k : TransportKind) (i : Instr) (es : List Event) : Pos → Prop
  | .pollStart w => w.follows k i es
  | .pollCond w _ => w.follows k i es
  | .pollNow w _ => w.follows k i es
  | .sendHeader _ => True
  | .sendByte _ _ _ _ => True
  | .sendWord _ _ _ => True
  | .sendNotify c => c.Moved k es
  | .sendCheck c => c.Moved k es
  | .recvPopHeader c => i = .recv c.blocking
  | .recvPopWord c _ => i = .recv c.blocking
  | .recvByte c _ _ _ => c.Moved k i es
  | .recvCheck c _ => c.Moved k i es
  | .dbHeader _ _ => True
  | .dbRead _ _ => True
  | .dbWrite _ _ _ => True
  | .dbRing _ => True
  | .dbAckClear _ => True
  | .dbInHeader c _ _ _ => c.Follows k i es
  | .dbInRead c _ _ => i = .recv c.blocking
  | .dbInWrite c _ _ _ => i = .recv c.blocking
  | .dbInClear c _ => i = .recv c.blocking
  | _ => False

/-! ### How it goes on, or ends -/

/-- The codes with which a SEND or RECV ends with nothing done (60_exceptions.md R216, R217, R220, R231). -/
def refusals : Instr → List ResultCode
  | .send _ _ => [.deviceNotPresent, .unsupported, .notReady]
  | .recv blk => [.deviceNotPresent, .notReady] ++ if blk then [] else [.noData]
  | _ => []

/-- The codes with which a SEND or RECV fails on a link of kind `k` (60_exceptions.md R217, R218, R230, R232). -/
def failures : TransportKind → List ResultCode
  | .circular => [.timeout, .overflow, .notReady]
  | .doorbell => [.timeout, .protocolError]

/-- The codes with which a SEND or RECV completes. -/
def completions : Instr → List ResultCode
  | .send _ _ => [.success]
  | .recv _ => [.success, .bufferTooSmall]
  | _ => []

/-- Since `s` the command has left the link's own state and the results alone, and has appended the events `es`. -/
structure UnderWay (s u : State) (es : List Event) : Prop where
  lstate : u.lstate = s.lstate
  resync : u.resync = s.resync
  res0 : u.res0 = s.res0
  res1 : u.res1 = s.res1
  res2 : u.res2 = s.res2
  trace : u.trace = s.trace ++ es

/-- The end of a SEND or RECV `i` by `fail` with the code `c`, past the gate (60_exceptions.md R223), after the events
`es`. -/
structure Failed (k : TransportKind) (i : Instr) (s t : State) (c : ResultCode) (es : List Event) : Prop where
  code : c ∈ failures k
  ready : s.lstate = .ready
  trace : t.trace = s.trace ++ es
  lstate : t.lstate = if c = .notReady then .resetting else s.lstate
  resync : t.resync = if anyMoved k es = true ∨ c = .notReady ∨ c = .protocolError then true else s.resync
  recv : (∃ blk, i = .recv blk) → t.res0 = 0
  down : c = .notReady → anyMoved k es = true
  event : c = .protocolError → (∃ a b, i = .send a b) → anyMoved k es = true ∧ t.dbIn.busy = true

/-- What a SEND or RECV `i` that was issued in `s` has come to in `t`. -/
inductive TransferStep (k : TransportKind) (i : Instr) (s t : State) : Prop
  | gates (p : Pos) (seq : t.seq = .busy p) (gate : p.atGate) (unmoved : UnderWay s t [])
  | goesOn (p : Pos) (es : List Event) (seq : t.seq = .busy p) (ready : s.lstate = .ready) (under : UnderWay s t es)
      (follows : p.follows k i es)
  | refuses (c : ResultCode) (idle : t.seq = .idle) (result : t.result = c.code) (code : c ∈ refusals i)
      (link : c = .notReady → s.lstate ≠ .ready) (unmoved : UnderWay s t [])
  | fails (c : ResultCode) (es : List Event) (idle : t.seq = .idle) (result : t.result = c.code)
      (failed : Failed k i s t c es)
  | completes (c : ResultCode) (idle : t.seq = .idle) (result : t.result = c.code) (code : c ∈ completions i)
      (lstate : t.lstate = s.lstate) (resync : t.resync = s.resync)

theorem UnderWay.refl (s : State) : UnderWay s s [] := ⟨rfl, rfl, rfl, rfl, rfl, (List.append_nil _).symm⟩

section
variable {k : TransportKind} {i : Instr} {s v : State} {es : List Event} (h : UnderWay s v es)
include h

theorem UnderWay.advance : UnderWay s v.advance es where
  lstate := v.advance_lstate.trans h.lstate
  resync := v.advance_resync.trans h.resync
  res0 := v.advance_res0.trans h.res0
  res1 := v.advance_res1.trans h.res1
  res2 := v.advance_res2.trans h.res2
  trace := v.advance_trace.trans h.trace

theorem UnderWay.trace_snoc (e : Event) : v.trace ++ [e] = s.trace ++ (es ++ [e]) :=
  (congrArg (· ++ [e]) h.trace).trans (List.append_assoc _ _ _)

theorem UnderWay.emitWindow (n : Nat) : UnderWay s (v.emitWindow n) (es ++ [.writeWin (memBytes v.outMsg n)]) :=
  { h with trace := h.trace_snoc _ }

theorem UnderWay.txPush (w : Word) : UnderWay s (v.txPush w) (es ++ [.push w]) := { h with trace := h.trace_snoc _ }

theorem UnderWay.rxPop : UnderWay s v.rxPop (es ++ [.pop v.rxFront]) := { h with trace := h.trace_snoc _ }

theorem UnderWay.notify : ∃ w, UnderWay s (v.writeHcsr none none (some true)) (es ++ [.writeReg .hcsr w]) :=
  ⟨_, { h with trace := h.trace_snoc _ }⟩

theorem UnderWay.writeDbOut (d : Doorbell) : UnderWay s (v.writeDbOut d) (es ++ [.writeReg .dbOut d.toWord]) :=
  { h with trace := h.trace_snoc _ }

theorem UnderWay.clearDbIn : UnderWay s v.clearDbIn (es ++ [.writeReg .dbIn Doorbell.zero.toWord]) :=
  { h with trace := h.trace_snoc _ }

theorem UnderWay.msgWrite (j : Nat) (b : Byte) : UnderWay s (v.msgWrite j b) es := { h with }

theorem UnderWay.outWrite (j : Nat) (b : Byte) : UnderWay s { v with outMsg := memWrite v.outMsg j b } es := { h with }

end

/-! ### The ends -/

section
variable {k : TransportKind} {i : Instr} {s v : State} {es : List Event}

theorem UnderWay.gates (h : UnderWay s v []) {p : Pos} (hp : p.atGate) : TransferStep k i s (v.goto p) :=
  .gates p rfl hp { h with }

theorem UnderWay.refuses (h : UnderWay s v []) {c : ResultCode} (hc : c ∈ refusals i)
    (hl : c = .notReady → s.lstate ≠ .ready) : TransferStep k i s (v.ret c) :=
  .refuses c rfl rfl hc hl { h with }

variable (h : UnderWay s v es) (ready : s.lstate = .ready)
include h

theorem UnderWay.completes {c : ResultCode} (hc : c ∈ completions i) : TransferStep k i s (v.ret c) :=
  .completes c rfl rfl hc h.lstate h.resync

include ready

theorem UnderWay.goesOn {p : Pos} (hp : p.follows k i es) : TransferStep k i s (v.goto p) :=
  .goesOn p es rfl ready { h with } hp

/-- A SEND that fails knows whether it has moved something (60_exceptions.md R223). -/
theorem UnderWay.fails {a b : Byte} {c : ResultCode} {moved : Bool} (hc : c ∈ failures k) (hm : moved = anyMoved k es)
    (down : c = .notReady → moved = true) (event : c = .protocolError → moved = true ∧ v.dbIn.busy = true) :
    TransferStep k (.send a b) s (v.fail c moved) := by
  subst hm
  refine .fails c es rfl rfl ⟨hc, ready, h.trace, ?_, ?_, nofun, down, fun e _ => event e⟩
  · rw [State.fail_lstate, h.lstate]
  · rw [← h.resync, ← abort_resync_eq]; rfl

/-- A RECV that fails has `RES0` 0 (42_cb_transport.md R148, 44_doorbell.md R199). -/
theorem UnderWay.recvFails {blk : Bool} {c : ResultCode} {moved : Bool} (hc : c ∈ failures k)
    (hm : moved = anyMoved k es) (down : c = .notReady → moved = true) :
    TransferStep k (.recv blk) s (v.recvFail c moved) := by
  subst hm
  refine .fails c es rfl rfl ⟨hc, ready, h.trace, ?_, ?_, fun _ => rfl, down, fun _ => nofun⟩
  · rw [State.recvFail_lstate, h.lstate]
  · rw [← h.resync, ← abort_resync_eq]; rfl

end

theorem timeout_mem_failures (k : TransportKind) : .timeout ∈ failures k := by cases k <;> decide

/-! ### SEND, step by step -/

section
variable {k : TransportKind} {a b : Byte} {s v : State} {es : List Event}

/-- Only a SEND has a gate. -/
theorem owner_of_atGate {p : Pos} (h : p.atGate) : p.owner = .send := by
  cases p with
  | gateA g => rfl
  | gateB g x => rfl
  | gateGroup g x => rfl
  | gateCommand g x group => rfl
  | _ => exact h.elim

/-- The end of the gate: `UNSUPPORTED`, `NOT_READY`, or the transfer with nothing moved. -/
theorem gateEnd_transferStep (h : UnderWay s v []) (g : GateCtx) (p : Path) (cat : Nat) :
    TransferStep k (.send a b) s (gateEnd v g p cat) := by
  unfold gateEnd
  split
  · split
    next up =>
      have ready : s.lstate = .ready := h.lstate.symm.trans up
      unfold sendBegin
      split
      · unfold txSendBegin
        split
        · exact h.completes (List.mem_singleton_self _)
        · exact h.goesOn ready rfl
      · split
        · exact h.refuses (by simp [refusals]) nofun
        · unfold dbSendBegin
          split
          · exact h.completes (List.mem_singleton_self _)
          · exact h.goesOn ready rfl
    next down => exact h.refuses (by simp [refusals]) fun _ => h.lstate ▸ down
  · exact h.refuses (by simp [refusals]) nofun

/-- One atomic step of a SEND at its gate. -/
theorem gate_transferStep {u t : State} {p : Pos} (h : UnderWay s u []) (hp : p.atGate)
    (ha : engineAct u p = .next t) : TransferStep k (.send a b) s t := by
  cases p with
  | gateA g => cases ha; exact h.gates trivial
  | gateB g x =>
    cases ha
    unfold gateB
    dsimp only
    split
    · exact h.gates trivial
    · exact gateEnd_transferStep h g _ _
  | gateGroup g x => cases ha; exact h.gates trivial
  | gateCommand g x group => cases ha; exact gateEnd_transferStep h g _ _
  | _ => exact hp.elim

variable (h : UnderWay s v es) (ready : s.lstate = .ready)
include h ready

theorem txSendNext_transferStep {c : SendCtx} (hc : c.Moved k es) :
    TransferStep k (.send a b) s (txSendNext v c) := by
  rcases txSendNext_cases v c with e | ⟨p, ps, -, e⟩ <;> rw [e]
  · exact h.completes (List.mem_singleton_self _)
  · exact h.goesOn ready (p := .pollStart _) (hc.left.trans hc.right.symm)

theorem sendNextWord_transferStep {c : SendCtx} (hc : c.Moved k es) (j : Nat) :
    TransferStep k (.send a b) s (sendNextWord v c j) := by
  rcases sendNextWord_cases v c j with ⟨-, e⟩ | e <;> rw [e]
  · exact h.goesOn ready trivial
  · exact h.goesOn ready (p := .sendNotify c) hc

theorem dbSendNext_transferStep {c : SendCtx} (hc : c.Moved k es) :
    TransferStep k (.send a b) s (dbSendNext v c) := by
  rcases dbSendNext_cases v c with e | ⟨p, ps, -, e⟩ <;> rw [e]
  · exact h.completes (List.mem_singleton_self _)
  · exact h.goesOn ready (p := .pollStart _) (hc.left.trans hc.right.symm)

theorem dbNextByte_transferStep (c : SendCtx) (j : Nat) : TransferStep k (.send a b) s (dbNextByte v c j) := by
  rcases dbNextByte_cases v c j with ⟨-, e⟩ | e <;> rw [e]
  · exact h.goesOn ready trivial
  · exact (h.emitWindow _).goesOn ready trivial

/-- A wait of a SEND that ends badly: the error of a circular link is its own, that of a doorbell link is `TIMEOUT`. -/
theorem sendWaitEnd_err_transferStep {w : Wait} (hk : k = w.kind) (ho : w.owner = .send)
    (hw : w.follows k (.send a b) es) {c : ResultCode} (hc : c = .timeout ∨ c = .overflow) :
    TransferStep k (.send a b) s (waitEnd v (.err c) w) := by
  have late := timeout_mem_failures k
  cases w with
  | sendRoom x =>
    obtain rfl := hk
    rcases hc with rfl | rfl <;> exact h.fails (k := .circular) ready (by decide) hw nofun nofun
  | dbIdle x => exact h.fails ready late hw nofun nofun
  | dbDone x => exact h.fails ready late (hw.left.trans hw.right.symm) nofun nofun
  | dbAck x => exact h.fails ready late (hw.left.trans hw.right.symm) nofun nofun
  | _ => cases ho

theorem sendWaitEnd_ok_transferStep {w : Wait} (hk : k = w.kind) (ho : w.owner = .send)
    (hw : w.follows k (.send a b) es) (hok : waitCond v w = .ok) :
    TransferStep k (.send a b) s (waitEnd v .ok w) := by
  cases w with
  | sendRoom x => exact h.goesOn ready trivial
  | dbIdle x => exact h.goesOn ready trivial
  | dbDone x => exact h.goesOn ready (p := .pollStart (.dbAck x)) hw
  | dbAck x =>
    obtain rfl := hk
    have busy : v.dbIn.busy = true := by
      by_contra idle
      cases (if_neg idle).symm.trans hok
    show TransferStep _ _ s (dbAckEnd v x .ok)
    rcases dbAckEnd_ok_cases v x with e | e <;> rw [e]
    · exact h.goesOn ready trivial
    · exact h.fails (k := .doorbell) ready (by decide) (hw.left.trans hw.right.symm) nofun fun _ => ⟨hw.left, busy⟩
  | _ => cases ho

/-- One atomic step of a SEND past its gate. -/
theorem send_transferStep {t : State} {p : Pos} (hk : p.onKind k) (ho : p.owner = .send)
    (hp : p.follows k (.send a b) es) (ha : engineAct v p = .next t) : TransferStep k (.send a b) s t := by
  cases p with
  | pollStart w => cases ha; exact h.goesOn ready hp
  | pollCond w x =>
    cases ha
    exact pollCond_holds (h.goesOn ready hp) (sendWaitEnd_ok_transferStep h ready hk ho hp)
      fun _ => sendWaitEnd_err_transferStep h ready hk ho hp (.inr rfl)
  | pollNow w x =>
    cases ha
    exact pollNow_holds (sendWaitEnd_err_transferStep h ready hk ho hp (.inl rfl)) (h.goesOn ready hp)
  | sendHeader c =>
    cases ha
    obtain rfl := hk
    exact sendNextWord_transferStep (h.txPush _) ready ⟨rfl, anyMoved_snoc rfl⟩ 0
  | sendByte c j n acc =>
    cases ha
    obtain ⟨acc', e | e⟩ := sendByte_cases v c j n acc <;> rw [e] <;> exact h.goesOn ready trivial
  | sendWord c j w =>
    cases ha
    obtain rfl := hk
    exact sendNextWord_transferStep (h.txPush w) ready ⟨rfl, anyMoved_snoc rfl⟩ _
  | sendNotify c =>
    cases ha
    obtain rfl := hk
    obtain ⟨w, notified⟩ := h.notify
    exact notified.goesOn ready (p := .sendCheck c) ⟨hp.left, (anyMoved_snoc_of_not rfl).trans hp.right⟩
  | sendCheck c =>
    cases ha
    obtain rfl := hk
    show TransferStep _ _ s (sendCheck v c)
    unfold sendCheck
    split
    · exact txSendNext_transferStep h ready hp
    · exact h.fails ready (by decide) (hp.left.trans hp.right.symm) (fun _ => hp.left) nofun
  | dbHeader c j =>
    simp only [engineAct, dbHeader] at ha
    rw [eq_of_outWrite_next ha]
    split
    · exact (h.outWrite _ _).goesOn ready trivial
    · exact dbNextByte_transferStep (h.outWrite _ _) ready c 0
  | dbRead c j => cases ha; exact h.goesOn ready trivial
  | dbWrite c j x =>
    simp only [engineAct, dbWrite] at ha
    rw [eq_of_outWrite_next ha]
    exact dbNextByte_transferStep (h.outWrite _ _) ready c _
  | dbRing c =>
    cases ha
    obtain rfl := hk
    have rung : SendCtx.Moved .doorbell (es ++ [.writeReg .dbOut (packetDoorbell v.cfg c.cur).toWord])
        { c with moved := true } := ⟨rfl, anyMoved_snoc rfl⟩
    unfold dbRing
    dsimp only
    split
    · exact (h.writeDbOut _).goesOn ready (p := .pollStart (.dbDone _)) rung
    · exact dbSendNext_transferStep (h.writeDbOut _) ready rung
  | dbAckClear c =>
    cases ha
    obtain rfl := hk
    exact dbSendNext_transferStep h.clearDbIn ready ⟨rfl, anyMoved_snoc rfl⟩
  | gateA g => exact hp.elim
  | gateB g x => exact hp.elim
  | gateGroup g x => exact hp.elim
  | gateCommand g x group => exact hp.elim
  | _ => cases ho

end

/-! ### RECV, step by step -/

section
variable {k : TransportKind} {i : Instr} {s v : State} {es : List Event} (h : UnderWay s v es)
  (ready : s.lstate = .ready)
include h

theorem recvDone_transferStep {blk : Bool} (c : RecvCtx) (hw : Word) :
    TransferStep k (.recv blk) s (v.recvDone c hw) := by
  refine .completes _ rfl rfl ?_ h.lstate h.resync
  split <;> simp [completions]

/-- The one look of a non-blocking RECV that has done nothing. -/
theorem noData_transferStep {c : RecvCtx} (hc : c.FollowsWhole k i es) (once : c.first = true ∧ c.blocking = false) :
    TransferStep k i s (v.ret .noData) := by
  obtain ⟨⟨rfl, -⟩, first⟩ := hc
  obtain rfl := first once.left
  exact h.refuses (by simp [refusals, once.right]) nofun

include ready

theorem recvNextWord_transferStep {c : RecvCtx} (hc : c.Moved k i es) (p : RxPacket) :
    TransferStep k i s (recvNextWord v c p) := by
  rcases recvNextWord_cases v c p with ⟨-, e⟩ | e <;> rw [e]
  · exact h.goesOn ready (p := .pollStart (.recvWord c p)) ⟨hc.left, hc.right.left.trans hc.right.right.symm⟩
  · exact h.goesOn ready (p := .recvCheck _ _) hc

theorem recvNextByte_transferStep {c : RecvCtx} (hc : c.Moved k i es) (p : RxPacket) (w : Word) (j : Nat) :
    TransferStep k i s (recvNextByte v c p w j) := by
  rcases recvNextByte_cases v c p w j with ⟨-, e⟩ | ⟨small, e⟩ <;> rw [e]
  · exact h.goesOn ready (p := .recvByte c p w j) hc
  · exact recvNextWord_transferStep h ready (c := { c with small := small }) hc _

theorem dbInNextByte_transferStep {c : RecvCtx} (hc : i = .recv c.blocking) (hw : Word) (j : Nat) :
    TransferStep k i s (dbInNextByte v c hw j) := by
  rcases dbInNextByte_cases v c hw j with ⟨-, -, e⟩ | ⟨small, e⟩ <;> rw [e]
  · exact h.goesOn ready (p := .dbInRead c hw j) hc
  · exact h.goesOn ready (p := .dbInClear { c with small := small } hw) hc

/-- The ready check of a circular RECV (42_cb_transport.md R150). -/
theorem recvCheck_transferStep {c : RecvCtx} (hk : k = .circular) (hc : c.Moved k i es) (hw : Word) :
    TransferStep k i s (recvCheck v c hw) := by
  obtain rfl := hk
  obtain ⟨rfl, knows, moved⟩ := hc
  rcases recvCheck_cases v c hw with e | e | e <;> rw [e]
  · exact recvDone_transferStep h c hw
  · exact h.goesOn ready (p := .pollStart (.recvHeader _)) ⟨⟨rfl, knows.trans moved.symm⟩, nofun⟩
  · exact h.recvFails ready (by decide) (knows.trans moved.symm) fun _ => knows

/-- A packet is consumed: the message is complete, or the next packet is waited for. -/
theorem dbInClear_transferStep {c : RecvCtx} (hk : k = .doorbell) (hc : i = .recv c.blocking) (hw : Word) :
    TransferStep k i s (dbInClear v c hw) := by
  obtain rfl := hk
  obtain rfl := hc
  unfold dbInClear
  dsimp only
  split
  · exact recvDone_transferStep h.clearDbIn _ hw
  · exact h.clearDbIn.goesOn ready (p := .pollStart (.dbEvent _)) ⟨⟨rfl, (anyMoved_snoc rfl).symm⟩, nofun⟩

/-- A wait of a RECV that ends badly: nothing found at the one look, or a failure. -/
theorem recvWaitEnd_err_transferStep {w : Wait} (hk : k = w.kind) (ho : w.owner = .recv) (hw : w.follows k i es)
    {c : ResultCode} (hc : c = .timeout ∨ c = .overflow) : TransferStep k i s (waitEnd v (.err c) w) := by
  cases w with
  | recvHeader x =>
    simp only [waitEnd, recvHeaderEnd]
    split
    next once => exact noData_transferStep h hw once.right
    next =>
      obtain rfl := hk
      obtain ⟨⟨rfl, knows⟩, -⟩ := hw
      rcases hc with rfl | rfl <;> exact h.recvFails (k := .circular) ready (by decide) knows nofun
  | recvWord x p =>
    obtain rfl := hk
    obtain ⟨rfl, knows⟩ := hw
    rcases hc with rfl | rfl <;> exact h.recvFails (k := .circular) ready (by decide) knows nofun
  | dbEvent x =>
    simp only [waitEnd, dbEventEnd]
    split
    next once => exact noData_transferStep h hw once.right
    next =>
      obtain ⟨⟨rfl, knows⟩, -⟩ := hw
      exact h.recvFails ready (timeout_mem_failures k) knows nofun
  | _ => cases ho

theorem recvWaitEnd_ok_transferStep {w : Wait} (hk : k = w.kind) (ho : w.owner = .recv) (hw : w.follows k i es) :
    TransferStep k i s (waitEnd v .ok w) := by
  cases w with
  | recvHeader x => exact h.goesOn ready (p := .recvPopHeader x) hw.left.left
  | recvWord x p => exact h.goesOn ready (p := .recvPopWord x p) hw.left
  | dbEvent x =>
    show TransferStep k i s (dbEventEnd v x .ok)
    rcases dbEventEnd_ok_cases v x with e | e <;> rw [e]
    · exact h.goesOn ready (p := .dbInHeader x v.dbIn 0 0) hw.left
    · obtain rfl := hk
      obtain ⟨⟨rfl, knows⟩, -⟩ := hw
      exact h.recvFails (k := .doorbell) ready (by decide) knows nofun
  | _ => cases ho

/-- One atomic step of a RECV. -/
theorem recv_transferStep {t : State} {p : Pos} (hk : p.onKind k) (ho : p.owner = .recv) (hp : p.follows k i es)
    (ha : engineAct v p = .next t) : TransferStep k i s t := by
  cases p with
  | pollStart w => cases ha; exact h.goesOn ready hp
  | pollCond w x =>
    cases ha
    exact pollCond_holds (h.goesOn ready hp) (fun _ => recvWaitEnd_ok_transferStep h ready hk ho hp)
      fun _ => recvWaitEnd_err_transferStep h ready hk ho hp (.inr rfl)
  | pollNow w x =>
    cases ha
    exact pollNow_holds (recvWaitEnd_err_transferStep h ready hk ho hp (.inl rfl)) (h.goesOn ready hp)
  | recvPopHeader c =>
    cases ha
    obtain rfl := hk
    exact recvNextWord_transferStep h.rxPop ready (c := { c with moved := true }) ⟨hp, rfl, anyMoved_snoc rfl⟩ _
  | recvPopWord c x =>
    cases ha
    obtain rfl := hk
    exact recvNextByte_transferStep h.rxPop ready (c := { c with moved := true }) ⟨hp, rfl, anyMoved_snoc rfl⟩ _ _ _
  | recvByte c x w j =>
    cases ha
    exact recvNextByte_transferStep (h.msgWrite _ _) ready (c := { c with n := c.n + 1 }) hp _ _ _
  | recvCheck c hw => cases ha; exact recvCheck_transferStep h ready hk hp hw
  | dbInHeader c d j acc =>
    obtain rfl := hk
    simp only [engineAct, dbInHeader] at ha
    rw [eq_of_inRead_next ha]
    split
    · exact h.goesOn ready (p := .dbInHeader c d (j + 1) _) hp
    · obtain ⟨rfl, knows⟩ := hp
      rcases dbInCheck_cases v c d (gatherHeader acc j (memRead v.inMsg j)) with ⟨-, e⟩ | e <;> rw [e]
      · exact dbInNextByte_transferStep h ready rfl _ _
      · exact h.recvFails ready (by decide) knows nofun
  | dbInRead c hw j =>
    simp only [engineAct, dbInRead] at ha
    rw [eq_of_inRead_next ha]
    exact h.goesOn ready (p := .dbInWrite c hw j _) hp
  | dbInWrite c hw j x =>
    cases ha
    exact dbInNextByte_transferStep (h.msgWrite _ _) ready (c := { c with n := c.n + 1 }) hp _ _
  | dbInClear c hw => cases ha; exact dbInClear_transferStep h ready hk hp hw
  | _ => cases ho

end

/-! ### The run -/

theorem beginSend_transferStep (a b : Byte) (s : State) :
    TransferStep s.cfg.kind (.send a b) s (beginSend a b s) := by
  unfold beginSend
  split
  · exact (UnderWay.refl s).gates trivial
  · exact (UnderWay.refl s).refuses (by simp [refusals]) nofun

theorem beginRecv_transferStep (blk : Bool) (s : State) :
    TransferStep s.cfg.kind (.recv blk) s (beginRecv blk s) := by
  have start := UnderWay.refl s
  unfold beginRecv
  split
  · split
    next ready =>
      split
      · exact start.goesOn ready (p := .pollStart (.recvHeader _)) ⟨⟨rfl, rfl⟩, fun _ => rfl⟩
      · exact start.goesOn ready (p := .pollStart (.dbEvent _)) ⟨⟨rfl, rfl⟩, fun _ => rfl⟩
    next down => exact start.refuses (by simp [refusals]) fun _ => down
  · exact start.refuses (by simp [refusals]) nofun

/-- What a SEND or RECV has come to, along its run. -/
theorem exec_transferStep {i : Instr} {s t : State} (hi : (∃ a b, i = .send a b) ∨ ∃ blk, i = .recv blk)
    (h : exec i s = .next t) : TransferStep s.cfg.kind i s t := by
  have begins : TransferStep s.cfg.kind i s (beginCommand i s) := by
    rcases hi with ⟨a, b, rfl⟩ | ⟨blk, rfl⟩
    · exact beginSend_transferStep a b s
    · exact beginRecv_transferStep blk s
  rw [exec_eq_run] at h
  have hend : CommandRun (commandOwner i) s t ∧ TransferStep s.cfg.kind i s t := by
    refine engineRun_induct (P := fun u => CommandRun (commandOwner i) s u ∧ TransferStep s.cfg.kind i s u)
      (fun u p v hq hu ha => ⟨hu.left.engine hq ha, ?_⟩) ⟨beginCommand_run i s, begins⟩ h
    obtain ⟨run, step⟩ := hu
    have hk := run.link.pos p hq
    have ho := run.pos p hq
    cases step with
    | gates q seq gate unmoved =>
      obtain rfl : q = p := Seq.busy.inj (seq.symm.trans hq)
      rcases hi with ⟨a, b, rfl⟩ | ⟨blk, rfl⟩
      · exact gate_transferStep unmoved.advance gate ha
      · cases (owner_of_atGate gate).symm.trans ho
    | goesOn q es seq ready under follows =>
      obtain rfl : q = p := Seq.busy.inj (seq.symm.trans hq)
      rcases hi with ⟨a, b, rfl⟩ | ⟨blk, rfl⟩
      · exact send_transferStep under.advance ready hk ho follows ha
      · exact recv_transferStep under.advance ready hk ho follows ha
    | refuses c idle => rw [idle] at hq; cases hq
    | fails c es idle => rw [idle] at hq; cases hq
    | completes c idle => rw [idle] at hq; cases hq
  exact hend.right

end Sys2Proof.Machine
end

section
/-! What a SEND or RECV that has ended leaves, by its code (60_exceptions.md R215 to R223, R234): the three ends of the
section before are told apart by `RESULT` and, for `NOT_READY`, by the link state at the start. -/

namespace Sys2Proof.Machine

/-! ### The codes of the three ends -/

theorem mem_refusals {i : Instr} {c : ResultCode} (h : c ∈ refusals i) :
    c = .deviceNotPresent ∨ c = .unsupported ∨ c = .notReady ∨ c = .noData := by
  cases i with
  | send a b => simp only [refusals, List.mem_cons, List.not_mem_nil] at h; tauto
  | recv blk => cases blk <;> simp [refusals] at h <;> tauto
  | _ => cases h

theorem mem_failures {k : TransportKind} {c : ResultCode} (h : c ∈ failures k) :
    c = .timeout ∨ c = .overflow ∨ c = .protocolError ∨ (c = .notReady ∧ k = .circular) := by
  cases k <;> simp only [failures, List.mem_cons, List.not_mem_nil] at h <;> tauto

theorem mem_completions {i : Instr} {c : ResultCode} (h : c ∈ completions i) : c = .success ∨ c = .bufferTooSmall := by
  cases i with
  | send a b => simp only [completions, List.mem_cons, List.not_mem_nil] at h; tauto
  | recv blk => simp only [completions, List.mem_cons, List.not_mem_nil] at h; tauto
  | _ => cases h

section
variable {k : TransportKind} {i : Instr} {s t : State} (step : TransferStep k i s t) (idle : t.seq = .idle)
include step idle

/-- These codes are written by `fail` alone, `NOT_READY` where the link was up. -/
theorem TransferStep.failed {c : ResultCode} (result : t.result = c.code)
    (hc : c = .timeout ∨ c = .overflow ∨ c = .protocolError ∨ (c = .notReady ∧ s.lstate = .ready)) :
    ∃ es, Failed k i s t c es := by
  cases step with
  | gates p seq => rw [idle] at seq; cases seq
  | goesOn p es seq => rw [idle] at seq; cases seq
  | refuses d _ result' code link _ =>
    obtain rfl := ResultCode.code_injective (result.symm.trans result')
    have := mem_refusals code
    grind
  | fails d es _ result' failed =>
    obtain rfl := ResultCode.code_injective (result.symm.trans result')
    exact ⟨es, failed⟩
  | completes d _ result' code =>
    obtain rfl := ResultCode.code_injective (result.symm.trans result')
    have := mem_completions code
    grind

/-- These codes end a command that has done nothing, `NOT_READY` where the link was not up. -/
theorem TransferStep.unmoved {c : ResultCode} (result : t.result = c.code)
    (hc : c = .deviceNotPresent ∨ c = .noData ∨ c = .unsupported ∨ (c = .notReady ∧ s.lstate ≠ .ready)) :
    UnderWay s t [] := by
  cases step with
  | gates p seq => rw [idle] at seq; cases seq
  | goesOn p es seq => rw [idle] at seq; cases seq
  | refuses d _ _ _ _ unmoved => exact unmoved
  | fails d es _ result' failed =>
    obtain rfl := ResultCode.code_injective (result.symm.trans result')
    have := mem_failures failed.code
    have := failed.ready
    grind
  | completes d _ result' code =>
    obtain rfl := ResultCode.code_injective (result.symm.trans result')
    have := mem_completions code
    grind

/-- A command that completes leaves the link's own state alone. -/
theorem TransferStep.completed
    (result : t.result = ResultCode.success.code ∨ t.result = ResultCode.bufferTooSmall.code) :
    t.lstate = s.lstate ∧ t.resync = s.resync := by
  cases step with
  | gates p seq => rw [idle] at seq; cases seq
  | goesOn p es seq => rw [idle] at seq; cases seq
  | refuses d _ result' _ _ unmoved => exact ⟨unmoved.lstate, unmoved.resync⟩
  | fails d es _ result' failed =>
    rw [result', ResultCode.code_inj, ResultCode.code_inj] at result
    have := mem_failures failed.code
    grind
  | completes d _ _ _ lstate resync => exact ⟨lstate, resync⟩

/-- A SEND or RECV that has ended has ended with one of the codes of its three ends. -/
theorem TransferStep.code_mem : ∃ c, (c ∈ refusals i ∨ c ∈ failures k ∨ c ∈ completions i) ∧ t.result = c.code := by
  cases step with
  | gates p seq => rw [idle] at seq; cases seq
  | goesOn p es seq => rw [idle] at seq; cases seq
  | refuses c _ result code => exact ⟨c, .inl code, result⟩
  | fails c es _ result failed => exact ⟨c, .inr (.inl failed.code), result⟩
  | completes c _ result code => exact ⟨c, .inr (.inr code), result⟩

end

/-! ### What a failure leaves -/

section
variable {k : TransportKind} {i : Instr} {s t : State} {c : ResultCode} {es : List Event} (h : Failed k i s t c es)
include h

/-- `TIMEOUT` and `OVERFLOW` set `RESYNC` for what has been moved only. -/
theorem Failed.resync_iff (hc : c = .timeout ∨ c = .overflow) :
    t.resync = true ↔ s.resync = true ∨ anyMoved k es = true := by
  rw [h.resync]
  rcases hc with rfl | rfl <;> simp [or_comm]

theorem Failed.lstate_eq (hc : c ≠ .notReady) : t.lstate = s.lstate := h.lstate.trans (if_neg hc)

/-- `NOT_READY` and `PROTOCOL_ERROR` set `RESYNC` in any case. -/
theorem Failed.resync_eq (hc : c = .notReady ∨ c = .protocolError) : t.resync = true :=
  h.resync.trans (if_pos (.inr hc))

end

/-- Settles O17, code by code. The premise of R246 is not needed. -/
theorem circularFailureLeaves : Obligations.CircularFailureLeaves := by
  intro i s t hi hk _ hrun idle moved
  have step : TransferStep .circular i s t := hk ▸ exec_transferStep hi hrun
  have reads {c : ResultCode} {es : List Event} (failed : Failed .circular i s t c es) :
      anyMoved .circular es = true ↔ moved := by
    rw [anyMoved_circular_iff s.trace, ← failed.trace]
  have aborts {c : ResultCode} (hc : c = .timeout ∨ c = .overflow) (result : t.result = c.code) :
      t.lstate = s.lstate ∧ (t.resync = true ↔ s.resync = true ∨ moved) ∧ ((∃ blk, i = .recv blk) → t.res0 = 0) := by
    obtain ⟨es, failed⟩ := step.failed idle result (by tauto)
    have up : c ≠ .notReady := by rcases hc with rfl | rfl <;> nofun
    exact ⟨failed.lstate_eq up, (failed.resync_iff hc).trans (or_congr_right (reads failed)), failed.recv⟩
  refine ⟨fun result => ?_, fun result ready => ?_, fun result down => ?_, step.completed idle, fun result => ?_⟩
  · rcases result with e | e
    · exact aborts (.inl rfl) e
    · exact aborts (.inr rfl) e
  · obtain ⟨es, failed⟩ := step.failed idle result (.inr (.inr (.inr ⟨rfl, ready⟩)))
    exact ⟨failed.lstate, failed.resync_eq (.inl rfl), (reads failed).mp (failed.down rfl), failed.recv⟩
  · have unmoved := step.unmoved idle result (.inr (.inr (.inr ⟨rfl, down⟩)))
    exact ⟨unmoved.lstate, unmoved.resync, unmoved.trace.trans (List.append_nil _), unmoved.res0⟩
  · have unmoved : UnderWay s t [] := by
      rcases result with e | e | e <;> exact step.unmoved idle e (by tauto)
    exact ⟨unmoved.lstate, unmoved.resync, unmoved.trace.trans (List.append_nil _), unmoved.res0, unmoved.res1,
      unmoved.res2⟩

/-- Settles O60, code by code; a doorbell link has no way to `NOT_READY` once the transfer is under way. The premise of
R246 is not needed. -/
theorem doorbellFailureLeaves : Obligations.DoorbellFailureLeaves := by
  intro i s t hi hk _ hrun idle moved
  have step : TransferStep .doorbell i s t := hk ▸ exec_transferStep hi hrun
  have reads {c : ResultCode} {es : List Event} (failed : Failed .doorbell i s t c es) :
      anyMoved .doorbell es = true ↔ moved := by
    rw [anyMoved_doorbell_iff s.trace, ← failed.trace]
  refine ⟨?_, fun result => ?_, fun result => ?_, fun result => (step.completed idle result).right, fun result => ?_⟩
  · have owner : commandOwner i = .send ∨ commandOwner i = .recv := by
      rcases hi with ⟨a, b, rfl⟩ | ⟨blk, rfl⟩
      · exact .inl rfl
      · exact .inr rfl
    rcases transfer_linkTransition owner hrun with same | ⟨circular, -⟩
    · exact same
    · cases hk.symm.trans circular
  · obtain ⟨es, failed⟩ := step.failed idle result (.inl rfl)
    exact ⟨(failed.resync_iff (.inl rfl)).trans (or_congr_right (reads failed)), failed.recv⟩
  · obtain ⟨es, failed⟩ := step.failed idle result (.inr (.inr (.inl rfl)))
    refine ⟨failed.resync_eq (.inr rfl), fun send => ?_, failed.recv⟩
    obtain ⟨hmoved, busy⟩ := failed.event rfl send
    exact ⟨busy, (reads failed).mp hmoved⟩
  · have unmoved : UnderWay s t [] := by
      rcases result with e | e | e | e
      · exact step.unmoved idle e (.inl rfl)
      · refine step.unmoved idle e (.inr (.inr (.inr ⟨rfl, fun ready => ?_⟩)))
        obtain ⟨es, failed⟩ := step.failed idle e (.inr (.inr (.inr ⟨rfl, ready⟩)))
        exact absurd failed.code (by decide)
      · exact step.unmoved idle e (.inr (.inl rfl))
      · exact step.unmoved idle e (.inr (.inr (.inl rfl)))
    exact ⟨unmoved.resync, unmoved.trace.trans (List.append_nil _), unmoved.res0, unmoved.res1, unmoved.res2⟩

/-! ### The codes of every command -/

/-- The codes of the three ends are among those of the command. -/
theorem transferCodes_subset {i : Instr} (hi : (∃ a b, i = .send a b) ∨ ∃ blk, i = .recv blk) (k : TransportKind) :
    refusals i ++ failures k ++ completions i ⊆ endCodes k i := by
  rcases hi with ⟨a, b, rfl⟩ | ⟨blk, rfl⟩
  · cases k <;> simp [refusals, failures, completions, endCodes]
  · cases k <;> cases blk <;> simp [refusals, failures, completions, endCodes]

theorem transfer_endCode {i : Instr} {s t : State} (hi : (∃ a b, i = .send a b) ∨ ∃ blk, i = .recv blk)
    (h : exec i s = .next t) (idle : t.seq = .idle) : ∃ c ∈ endCodes s.cfg.kind i, t.result = c.code := by
  obtain ⟨c, hc, result⟩ := (exec_transferStep hi h).code_mem idle
  refine ⟨c, transferCodes_subset hi _ ?_, result⟩
  rw [List.mem_append, List.mem_append, or_assoc]
  exact hc

theorem linkCodes_subset {i : Instr} (hi : commandOwner i = .link) (k : TransportKind) :
    .deviceNotPresent :: .notReady :: linkCodes k ⊆ endCodes k i := by
  cases i with
  | init => cases k <;> decide
  | lreset => cases k <;> decide
  | _ => cases hi

theorem link_endCode {i : Instr} {s t : State} (hi : commandOwner i = .link) (h : exec i s = .next t)
    (idle : t.seq = .idle) : ∃ c ∈ endCodes s.cfg.kind i, t.result = c.code := by
  obtain ⟨c, hc, result⟩ := link_endsIn hi h idle
  exact ⟨c, linkCodes_subset hi _ hc, result⟩

/-- Settles O16, by the owner of the command. The premise of R246 is not needed. -/
theorem endCodes_hold : Obligations.EndCodes := by
  intro i s t _ hrun idle
  have timer (hi : i = .tstart ∨ i = .texpired) : ∃ c ∈ [ResultCode.success, .unsupported], t.result = c.code := by
    rcases timer_endCode hi hrun with e | e
    · exact ⟨_, .head _, e⟩
    · exact ⟨_, .tail _ (.head _), e⟩
  have query {q : Query} (h : runCommand (beginQuery q s) = .next t) :
      ∃ c ∈ [ResultCode.success, .deviceNotPresent], t.result = c.code := by
    rcases query_endCode h with e | e
    · exact ⟨_, .head _, e⟩
    · exact ⟨_, .tail _ (.head _), e⟩
  cases i with
  | tstart => exact timer (.inl rfl)
  | texpired => exact timer (.inr rfl)
  | init => exact link_endCode rfl hrun idle
  | send a b => exact transfer_endCode (.inl ⟨a, b, rfl⟩) hrun idle
  | recv blk => exact transfer_endCode (.inr ⟨blk, rfl⟩) hrun idle
  | lreset => exact link_endCode rfl hrun idle
  | classify => exact query hrun
  | hidemask => exact query hrun
  | allowmask => exact query hrun

end Sys2Proof.Machine
end

section
/-! The ends of a wait at its first look (60_exceptions.md R220, R232): an overflow, wherever it is found, and the one look
of a non-blocking RECV that finds nothing. -/

namespace Sys2Proof.Machine

/-! ### RECV up to its first look -/

section
variable {s : State} (hd : s.cfg.devicePresent = true) (hl : s.lstate = .ready)
include hd hl

theorem beginRecv_of_circular (hk : s.cfg.kind = .circular) (blk : Bool) :
    beginRecv blk s = s.poll (.recvHeader (recvStart blk s.arg0.toNat)) := by
  rw [beginRecv, if_pos hd, if_pos hl, hk]

theorem beginRecv_of_doorbell (hk : s.cfg.kind = .doorbell) (blk : Bool) :
    beginRecv blk s = s.poll (.dbEvent (recvStart blk s.arg0.toNat)) := by
  rw [beginRecv, if_pos hd, if_pos hl, hk]

end

/-! ### Overflow -/

theorem txSpaceCond_of_overflow {u : State} (h : u.hcsr.depth.toNat < filled u.hcsr) (need : Nat) :
    txSpaceCond u need = .err .overflow :=
  if_pos (decide_eq_true h)

theorem rxWordCond_of_overflow {u : State} (h : u.ccsr.depth.toNat < filled u.ccsr) : rxWordCond u = .err .overflow :=
  if_pos (decide_eq_true h)

/-- `OVERFLOW` leaves `LSTATE`, and sets `RESYNC` for what has been moved only (60_exceptions.md R223). -/
theorem fail_overflow (u : State) (moved : Bool) :
    u.fail .overflow moved =
      { u with resync := u.resync || moved, result := ResultCode.overflow.code, seq := .idle } := by
  have resync : (u.resync || moved || decide (ResultCode.overflow = .notReady) ||
      decide (ResultCode.overflow = .protocolError)) = (u.resync || moved) := by simp
  rw [State.fail, State.abort, resync]
  rfl

theorem recvFail_overflow (u : State) (moved : Bool) :
    u.recvFail .overflow moved =
      { u with res0 := 0, resync := u.resync || moved, result := ResultCode.overflow.code, seq := .idle } :=
  fail_overflow { u with res0 := 0 } moved

/-- An overflow at a header is never taken for nothing found. -/
theorem recvHeaderEnd_overflow (u : State) (c : RecvCtx) :
    recvHeaderEnd u c (.err .overflow) = u.recvFail .overflow c.moved := by
  have notLate : ¬ (ResultCode.overflow = .timeout ∧ c.first = true ∧ c.blocking = false) := fun late => by
    cases late.left
  rw [recvHeaderEnd, if_neg notLate]

/-- A look that finds an error ends the poll. -/
theorem reaches_waitEnd_of_err {s : State} {w : Wait} {x : Timer} {c : ResultCode}
    (hq : s.seq = .busy (.pollCond w x)) (h : waitCond s.advance w = .err c) :
    Reaches 1 s (waitEnd s.advance (.err c) w) := by
  refine .one hq (spins_eq_false nofun) ?_
  rw [engineAct, pollCond, h]

/-- A poll whose first look finds an error. -/
theorem reaches_waitEnd_of_first_err {s : State} {w : Wait} {c : ResultCode}
    (h : waitCond s.advance.advance w = .err c) :
    Reaches 2 (s.poll w) (waitEnd s.advance.advance (.err c) w) := by
  have look := reaches_waitEnd_of_err (s := s.advance.goto (.pollCond w (s.advance.pollTimer w))) rfl
    (c := c) (by rw [State.advance_goto, waitCond_goto, h])
  rw [State.advance_goto, waitEnd_goto] at look
  exact (reaches_pollCond s w).trans look

/-- A transfer begins with nothing moved. -/
theorem txSendBegin_unmoved {u : State} (hdepth : 2 ≤ u.cfg.hdepth.toNat) (dst src : Byte) (len : Nat) :
    ∃ c : SendCtx, c.moved = false ∧ txSendBegin u dst src len = u.poll (.sendRoom c) := by
  obtain ⟨ps, last, hplan, -, -⟩ := plan_eq_append_last (len := len) (maxPay_pos hdepth)
  unfold txSendBegin
  split
  next empty => rw [empty] at hplan; exact absurd hplan.symm (List.append_ne_nil_of_right_ne_nil _ nofun)
  next p ps heq => exact ⟨_, rfl, rfl⟩

/-- A circular SEND whose first room test finds too many words. -/
theorem exec_send_overflow (a b : Byte) {s : State} (hd : s.cfg.devicePresent = true) (hk : s.cfg.kind = .circular)
    (hl : s.lstate = .ready) (hdepth : 2 ≤ s.cfg.hdepth.toNat) (hpass : s.gatePasses = true)
    (hover : s.afterGate.advance.advance.hcsr.depth.toNat < filled s.afterGate.advance.advance.hcsr) :
    exec (.send a b) s = .next (s.afterGate.advance.advance.fail .overflow false) := by
  obtain ⟨n, hn, gate, -⟩ := reaches_gateEnd a b hd
  rw [gateEnd_afterGate hk, if_pos hpass, if_pos hl] at gate
  have deep : 2 ≤ s.afterGate.cfg.hdepth.toNat := by rw [(afterGate_kept s).cfg]; exact hdepth
  obtain ⟨c, unmoved, begins⟩ := txSendBegin_unmoved deep a b s.arg0.toNat
  rw [begins] at gate
  have run := gate.trans (reaches_waitEnd_of_first_err (w := .sendRoom c) (txSpaceCond_of_overflow hover _))
  rw [exec_eq_run, beginCommand, runCommand_of_reaches run (by omega) rfl, ← unmoved]
  rfl

/-- A circular RECV whose first look finds too many words. -/
theorem exec_recv_overflow (blk : Bool) {s : State} (hd : s.cfg.devicePresent = true) (hk : s.cfg.kind = .circular)
    (hl : s.lstate = .ready) (hover : s.advance.advance.ccsr.depth.toNat < filled s.advance.advance.ccsr) :
    exec (.recv blk) s = .next (s.advance.advance.recvFail .overflow false) := by
  have run := reaches_waitEnd_of_first_err (s := s) (w := .recvHeader (recvStart blk s.arg0.toNat))
    (rxWordCond_of_overflow hover)
  rw [waitEnd, recvHeaderEnd_overflow] at run
  rw [exec_eq_run, beginCommand, beginRecv_of_circular hd hl hk, runCommand_of_reaches run (by decide) rfl]
  rfl

/-- A step at a look that finds an error, and ends the command with it. -/
theorem step_of_err {s : State} {w : Wait} {x : Timer} {c : ResultCode} (hwf : s.cfg.wf = true)
    (hq : s.seq = .busy (.pollCond w x)) (h : waitCond s.advance w = .err c)
    (idle : (waitEnd s.advance (.err c) w).seq = .idle) : step s = .next (waitEnd s.advance (.err c) w) := by
  rw [step_of_busy hwf hq]
  exact runCommand_of_reaches (reaches_waitEnd_of_err hq h) (by decide) idle

/-- Settles O51: the first look of each command, and a step at any later look. The premise of R246 gives the value of
`RESYNC` after the step. -/
theorem overflowEnds : Obligations.OverflowEnds := by
  refine ⟨fun s hd hk hl _ => ⟨?_, ?_⟩, fun s x hwf hresync => ⟨?_, ?_⟩⟩
  · intro a b hdepth hpass u hover
    rw [exec_send_overflow a b hd hk hl hdepth hpass hover, fail_overflow, Bool.or_false]
  · intro blk u hover
    rw [exec_recv_overflow blk hd hk hl hover, recvFail_overflow, Bool.or_false]
  · intro c hq hover
    have resync : c.moved = (s.advance.resync || c.moved) := by rw [s.advance_resync, hresync, Bool.false_or]
    rw [step_of_err hwf hq (txSpaceCond_of_overflow hover _) rfl, resync, ← fail_overflow]
    rfl
  · intro c hq hover
    have resync : c.moved = (s.advance.resync || c.moved) := by rw [s.advance_resync, hresync, Bool.false_or]
    have header : waitEnd s.advance (.err .overflow) (.recvHeader c) = s.advance.recvFail .overflow c.moved :=
      recvHeaderEnd_overflow _ c
    rw [resync, ← recvFail_overflow]
    rcases hq with hq | ⟨p, hq⟩
    · rw [step_of_err hwf hq (rxWordCond_of_overflow hover) (header ▸ rfl)]
      exact congrArg _ header
    · exact step_of_err hwf hq (rxWordCond_of_overflow hover) rfl

/-! ### Nothing found -/

/-- A timer whose deadline is its start has expired at once (40_timer.md R113 d). -/
theorem expired_self (start now : Nat) : expired start start now = true := by
  simp [expired]

/-- A wait of no duration that does not find its condition met ends at its one look. -/
theorem reaches_timeout_of_zero {s : State} {w : Wait} (hzero : waitDuration s.cfg w = 0)
    (h : waitCond s.advance.advance w = .wait) :
    Reaches 3 (s.poll w) (waitEnd s.advance.advance.advance (.err .timeout) w) := by
  have timer : (s.advance.pollTimer w).stop = (s.advance.pollTimer w).start := by
    simp only [State.pollTimer, deadline, State.advance_cfg, hzero, ticksOf, Nat.zero_mul, Nat.zero_div, Nat.add_zero]
    exact Nat.mod_eq_of_lt (s.advance_cfg ▸ now_lt s.advance)
  refine ((reaches_pollCond s w).trans (reaches_pollNow_of_wait h)).trans (reaches_timeout ?_ ?_)
  · simp only [spins, timer, expired_self, Bool.not_true, Bool.and_false]
  · rw [timer, expired_self]

/-- A RECV whose wait has no duration and finds nothing, so that it ends with `NO_DATA`. -/
theorem exec_recv_of_nothing {blk : Bool} {s : State} {w : Wait} (begins : beginRecv blk s = s.poll w)
    (hzero : waitDuration s.cfg w = 0) (hwait : waitCond s.advance.advance w = .wait)
    (hend : waitEnd s.advance.advance.advance (.err .timeout) w = s.advance.advance.advance.ret .noData) :
    exec (.recv blk) s = .next (s.advance.advance.advance.ret .noData) := by
  have run := hend ▸ reaches_timeout_of_zero hzero hwait
  rw [exec_eq_run, beginCommand, begins, runCommand_of_reaches run (by decide) rfl]

/-- Settles O55: the one look of the kind of the link, and that `NO_DATA` is no code of a blocking RECV. Neither the
invariant nor the premise of R246 is needed. -/
theorem recvNoData : Obligations.RecvNoData := by
  refine ⟨fun s _ hd hl _ nothing => ?_, fun s t _ hrun idle result => ?_⟩
  · cases hk : s.cfg.kind with
    | circular =>
      rw [if_pos hk] at nothing
      have noWord : rxWordCond s.advance.advance = .wait := by
        simp [rxWordCond, overflows, nothing]
      exact exec_recv_of_nothing (beginRecv_of_circular hd hl hk false) rfl noWord rfl
    | doorbell =>
      rw [if_neg (by rw [hk]; decide)] at nothing
      have noEvent : inBusyCond s.advance.advance = .wait := by
        simp [inBusyCond, nothing]
      exact exec_recv_of_nothing (beginRecv_of_doorbell hd hl hk false) rfl noEvent rfl
  · obtain ⟨c, hc, code⟩ := transfer_endCode (.inr ⟨true, rfl⟩) hrun idle
    obtain rfl := ResultCode.code_injective (result.symm.trans code)
    cases hk : s.cfg.kind <;> rw [hk] at hc <;> exact absurd hc (by decide)

end Sys2Proof.Machine
end

section
/-! The sampling bound (70_reset_and_hazards.md R252): a legal configuration leaves two steps' ticks between a deadline
and the counter's period, so that no poller passes over the window in which its timer is expired. -/

namespace Sys2Proof.Machine

theorem ticksOf_mono (c : Config) {us us' : Nat} (h : us ≤ us') : ticksOf c us ≤ ticksOf c us' :=
  Nat.div_le_div_right (Nat.mul_le_mul_right _ h)

/-- The sampling bound for every duration the engine uses: those up to the longest of the block, and `T_DB`. -/
theorem ticksOf_add_sampling_lt {c : Config} {us : Nat} (hwf : c.wf = true) (hus : us ≤ 15000000 ∨ us = c.tDb) :
    ticksOf c us + 2 * c.maxTicksPerStep < 2 ^ c.cw := by
  obtain ⟨_, _, _, _, hsampling, _⟩ := (config_wf_iff c).mp hwf
  simp only [Config.samplingOk, Bool.and_eq_true, decide_eq_true_eq] at hsampling
  obtain ⟨longest, doorbell⟩ := hsampling
  have period := Nat.two_pow_pos c.cw
  rcases hus with within | rfl
  · have shorter := ticksOf_mono c within
    rw [← ticksOf] at longest
    omega
  · rw [← ticksOf] at doorbell
    omega

/-- Settles O24: a first sample that is not expired is not past the deadline, so by R252 the second lies in the same
period of the counter, where the expiry test compares the elapsed ticks with the timer's. -/
theorem pollerCannotStepOver : Obligations.PollerCannotStepOver := by
  intro c start us e1 e2 hwf hus _ hstart _ hstep hfirst hlive
  have fits := ticksOf_add_sampling_lt hwf hus
  have hticks : ticksOf c us < 2 ^ c.cw := by omega
  have notLate : e1 ≤ ticksOf c us := Nat.le_of_not_lt fun past =>
    Bool.false_ne_true (hlive.symm.trans ((expired_within_period hstart hticks hfirst).right past))
  have upper : e2 ≤ ticksOf c us + 2 * c.maxTicksPerStep := by omega
  obtain ⟨early, late⟩ := expired_within_period hstart hticks (Nat.lt_of_le_of_lt upper fits)
  exact ⟨fun hexpired => ⟨early hexpired, upper⟩, late⟩

end Sys2Proof.Machine
end
